-- ==== Sys2Proof/Word.lean ====
section
/-!
DEFINITION. The fixed-width quantities of the engine. It has one (rule R7): the 64-bit `pc` field of a record, which no
rule reads. Bytes appear only as the ASCII characters of a trace line (rule R80).
-/

namespace Sys2Proof

/-- One ASCII character of a trace line (rule R80). -/
abbrev Byte := BitVec 8

/-- The `pc` field of a record: "parsed as 64-bit unsigned" (rules R20, R24). -/
abbrev Pc := BitVec 64

end Sys2Proof
end

