-- ==== Sys2Proof/Config.lean ====
section
/-!
DEFINITION. What an implementation fixes: the three configuration parameters (rule R5) and the fixed constants of the
engine (rule R6). The manual leaves no value free, so no constant here is without a body.
-/

namespace Sys2Proof

/-- The number of architectural register names (rule R6). -/
abbrev numArf : Nat := 67

/-- The configuration registers `ROB_SIZE`, `IQ_SIZE`, `WIDTH` (rules R5, R29): fixed before reset, constant for a run. -/
structure Config where
  robSize : Nat
  iqSize : Nat
  width : Nat
deriving DecidableEq, Repr

/-- Capacity of each of the buffers DE, RN, RR, DI (rules R6, R38). -/
abbrev Config.bufCap (c : Config) : Nat := c.width

/-- `WB_CAP`, the capacity of the buffer WB (rules R6, R38). -/
abbrev Config.wbCap (c : Config) : Nat := 5 * c.width

/-- `EX_CAP`, the cap of the execution list (rule R6). -/
abbrev Config.exCap (c : Config) : Nat := 5 * c.width

/-- The configuration of scenario S1, which `State.reset` samples. DESIGN CHOICE (log 2): the three parameters are inputs
and have no reset value of their own; unsafe for a claim that rests on these numbers. -/
def Config.scenarioS1 : Config where
  robSize := 8
  iqSize := 4
  width := 1

end Sys2Proof
end

