-- ==== Sys2Proof/Syntax.lean ====
section
/-!
DEFINITION. The instruction alphabet: the three operation types, one constructor of `Instr` for each row of the opcode
map (rule R83), and the five parsed fields of a trace record before their domains are checked (rule R80).
-/

namespace Sys2Proof

/-- An architectural register name, 0 to 66 (rules R20, R23). Register 0 is an ordinary name. -/
abbrev ArfIndex := Fin numArf

/-- A register field: an ARF index, or `none` for the sentinel that names no register (rules R11, R20). -/
abbrev RegField := Option ArfIndex

/-- The operation type, the value of the field `opType` (rules R20, R83). -/
inductive OpType where
  | t0
  | t1
  | t2
deriving DecidableEq, Repr

/-- The value of `opType` that selects the class (rule R83). -/
def OpType.code : OpType → Nat
  | .t0 => 0
  | .t1 => 1
  | .t2 => 2

/-- The nine stages in pipeline order (rule R1). -/
inductive Stage where
  | fe
  | de
  | rn
  | rr
  | di
  | is
  | ex
  | wb
  | rt
deriving DecidableEq, Repr

/-- The stage that follows in pipeline order (rule R1); Retire is the last. -/
def Stage.next : Stage → Option Stage
  | .fe => some .de
  | .de => some .rn
  | .rn => some .rr
  | .rr => some .di
  | .di => some .is
  | .is => some .ex
  | .ex => some .wb
  | .wb => some .rt
  | .rt => none

/-- The place of a stage in pipeline order, from 0 for Fetch to 8 for Retire (rule R1). -/
def Stage.place : Stage → Nat
  | .fe => 0
  | .de => 1
  | .rn => 2
  | .rr => 3
  | .di => 4
  | .is => 5
  | .ex => 6
  | .wb => 7
  | .rt => 8

/-- The five parsed fields of a record in their order (rule R80), as the exact numbers the text denotes. -/
structure RawRecord where
  pc : Nat
  opType : Int
  destReg : Int
  src1Reg : Int
  src2Reg : Int
deriving DecidableEq, Repr

/-- An instruction: a record of the format TR5 whose fields lie in their domains (rules R80, R85), one constructor per row
of the opcode map (rule R83). The operands are `pc`, `dst`, `src1`, `src2`. -/
inductive Instr where
  | op0 (pc : Pc) (dst src1 src2 : RegField)
  | op1 (pc : Pc) (dst src1 src2 : RegField)
  | op2 (pc : Pc) (dst src1 src2 : RegField)
deriving DecidableEq, Repr

/-- The field `pc` (rule R20). -/
def Instr.pc : Instr → Pc
  | .op0 pc _ _ _ => pc
  | .op1 pc _ _ _ => pc
  | .op2 pc _ _ _ => pc

/-- The class of an instruction (rule R83). -/
def Instr.op : Instr → OpType
  | .op0 _ _ _ _ => .t0
  | .op1 _ _ _ _ => .t1
  | .op2 _ _ _ _ => .t2

/-- The destination register field (rule R20). -/
def Instr.dst : Instr → RegField
  | .op0 _ d _ _ => d
  | .op1 _ d _ _ => d
  | .op2 _ d _ _ => d

/-- The first source register field (rule R20). -/
def Instr.src1 : Instr → RegField
  | .op0 _ _ a _ => a
  | .op1 _ _ a _ => a
  | .op2 _ _ a _ => a

/-- The second source register field (rule R20). -/
def Instr.src2 : Instr → RegField
  | .op0 _ _ _ b => b
  | .op1 _ _ _ b => b
  | .op2 _ _ _ b => b

end Sys2Proof
end

