-- ==== Sys2Proof/WellFormed.lean ====
section
/-!
DEFINITION. The checks on data that comes from outside: the domains of the five fields of a record (rules R80, R85) and
of the three parameters (rule R232). An `Instr` is well formed by its type; `Instr.wellFormed` says so through its fields.
-/

namespace Sys2Proof

/-- Domain of the field PC: 0 .. 2^64-1 (rule R80). -/
def pcInDomain (n : Nat) : Bool := n < 2 ^ 64

/-- Domain of the field opType: 0, 1, 2 (rule R80). -/
def opTypeInDomain (v : Int) : Bool := v == 0 || v == 1 || v == 2

/-- Domain of a register field: -1, or 0 .. 66 (rule R80). -/
def regInDomain (v : Int) : Bool := decide (-1 ≤ v) && decide (v ≤ 66)

/-- All five fields lie in the domains of rule R80; a record that fails this has no meaning (rule R85). -/
def RawRecord.wellFormed (r : RawRecord) : Bool :=
  pcInDomain r.pc && opTypeInDomain r.opType && regInDomain r.destReg && regInDomain r.src1Reg && regInDomain r.src2Reg

/-- The number a register field carries in a record: -1 for `none` (rule R82). -/
def regNumber : RegField → Int
  | none => -1
  | some r => (r.val : Int)

/-- The five fields of an instruction's record (rules R80, R82, R83). -/
def Instr.toRaw (i : Instr) : RawRecord where
  pc := i.pc.toNat
  opType := (i.op.code : Int)
  destReg := regNumber i.dst
  src1Reg := regNumber i.src1
  src2Reg := regNumber i.src2

/-- An instruction is well formed when its five fields lie in their domains. -/
def Instr.wellFormed (i : Instr) : Bool := i.toRaw.wellFormed

/-- "All size parameters are positive integers" (rules R5, R232). -/
def Config.wellFormed (c : Config) : Bool := decide (0 < c.robSize) && decide (0 < c.iqSize) && decide (0 < c.width)

/-- The precondition the spec adds to every liveness claim (rules R232, R249): `WIDTH` is at most `ROB_SIZE` and `IQ_SIZE`. -/
def Config.live (c : Config) : Bool := c.wellFormed && decide (c.width ≤ c.robSize) && decide (c.width ≤ c.iqSize)

end Sys2Proof
end

