-- ==== Sys2Proof/Decode.lean ====
section
/-!
DEFINITION. The decoder from the bytes of a trace line to an instruction, total on any bytes, and after it the encoder.
The spec gives an instruction one external form, the text line `<pc-hex> <opType> <destReg> <src1Reg> <src2Reg>` (rules
R80, R86), and no binary form; the bytes of an instruction are therefore the ASCII bytes of its line (DESIGN CHOICE, log 1).
-/

namespace Sys2Proof

/-- What the trace port makes of one line. -/
inductive Decoded where
  /-- A record whose five fields parse and lie in their domains (rules R80, R82, R83). -/
  | instr (i : Instr)
  /-- Fewer than five fields parsed: "treated identically to EOF" (rules R84, R202). -/
  | endOfStream
  /-- Five parsed fields with a value outside its domain: no meaning, refused at the port (rule R85). -/
  | outOfDomain
  /-- Five parsed fields and something after them: outside "each exactly five fields" (rule R80). DESIGN CHOICE, safe (log 8). -/
  | surplusFields
deriving DecidableEq, Repr

/-- White space between fields (rule R80, "whitespace-separated ASCII"): blank and the bytes 9 to 13. PRESUMED (log 9). -/
def isSpace (b : Byte) : Bool := b.toNat == 32 || (decide (9 ≤ b.toNat) && decide (b.toNat ≤ 13))

/-- The fields of a line: the longest runs of bytes without white space. `cur` is the run being read, last byte first. -/
def splitFields : List Byte → List Byte → List (List Byte)
  | [], cur => if cur.isEmpty then [] else [cur.reverse]
  | b :: bs, cur =>
    if isSpace b then (if cur.isEmpty then splitFields bs [] else cur.reverse :: splitFields bs [])
    else splitFields bs (b :: cur)

/-- The value of a decimal digit. -/
def decDigit (b : Byte) : Option Nat :=
  if 48 ≤ b.toNat ∧ b.toNat ≤ 57 then some (b.toNat - 48) else none

/-- The value of a hexadecimal digit of either case (log 9). -/
def hexDigit (b : Byte) : Option Nat :=
  if 48 ≤ b.toNat ∧ b.toNat ≤ 57 then some (b.toNat - 48)
  else if 97 ≤ b.toNat ∧ b.toNat ≤ 102 then some (b.toNat - 87)
  else if 65 ≤ b.toNat ∧ b.toNat ≤ 70 then some (b.toNat - 55)
  else none

/-- The number a run of digits denotes in `base`, from `acc`; none where a byte is no digit. -/
def digitsValue (base : Nat) (digit : Byte → Option Nat) : List Byte → Nat → Option Nat
  | [], acc => some acc
  | b :: bs, acc =>
    match digit b with
    | some d => digitsValue base digit bs (base * acc + d)
    | none => none

/-- A non-empty run of digits in `base`. -/
def parseDigits (base : Nat) (digit : Byte → Option Nat) (bs : List Byte) : Option Nat :=
  if bs.isEmpty then none else digitsValue base digit bs 0

/-- A field without its optional `0x` (rules R80, R81: "no leading `0x` required"). -/
def dropHexMark : List Byte → List Byte
  | [] => []
  | [a] => [a]
  | a :: b :: bs => if a = 48 ∧ (b = 120 ∨ b = 88) then bs else a :: b :: bs

/-- The field PC: hexadecimal (rule R80). -/
def parseHex (bs : List Byte) : Option Nat := parseDigits 16 hexDigit (dropHexMark bs)

/-- A decimal integer, with a minus sign where it is negative (rule R80). -/
def parseInt : List Byte → Option Int
  | [] => none
  | b :: bs =>
    if b = 45 then (parseDigits 10 decDigit bs).map fun n => -(n : Int)
    else (parseDigits 10 decDigit (b :: bs)).map fun n => (n : Int)

/-- The five fields, each parsed by its own syntax (rule R80); none where one does not parse. -/
def parseFive (pc op dst src1 src2 : List Byte) : Option RawRecord :=
  match parseHex pc, parseInt op, parseInt dst, parseInt src1, parseInt src2 with
  | some p, some o, some d, some a, some b => some ⟨p, o, d, a, b⟩
  | _, _, _, _, _ => none

/-- A register field: -1 is `none`, 0 .. 66 an ARF index (rule R82); any other number is outside the domain (rule R85). -/
def regOfNumber (v : Int) : Option RegField :=
  if v = -1 then some none
  else if h : 0 ≤ v ∧ v ≤ 66 then some (some ⟨v.toNat, by show v.toNat < 67; omega⟩)
  else none

/-- The field `opType` alone selects the class (rule R83). -/
def opOfNumber (v : Int) : Option OpType :=
  if v = 0 then some .t0 else if v = 1 then some .t1 else if v = 2 then some .t2 else none

/-- The instruction of a class with given operands (rule R83). -/
def Instr.ofFields (op : OpType) (pc : Pc) (dst src1 src2 : RegField) : Instr :=
  match op with
  | .t0 => .op0 pc dst src1 src2
  | .t1 => .op1 pc dst src1 src2
  | .t2 => .op2 pc dst src1 src2

/-- The instruction of a record whose fields lie in their domains (rules R81 to R83), none for any other (rule R85). -/
def Instr.ofRaw (r : RawRecord) : Option Instr :=
  if pcInDomain r.pc then
    match opOfNumber r.opType, regOfNumber r.destReg, regOfNumber r.src1Reg, regOfNumber r.src2Reg with
    | some o, some d, some a, some b => some (Instr.ofFields o (BitVec.ofNat 64 r.pc) d a b)
    | _, _, _, _ => none
  else none

/-- The answer of the trace port for the fields of a line (rules R80 to R85). -/
def decodeFields : List (List Byte) → Decoded
  | pc :: op :: dst :: src1 :: src2 :: more =>
    match parseFive pc op dst src1 src2 with
    | none => .endOfStream
    | some r =>
      if more.isEmpty then
        match Instr.ofRaw r with
        | some i => .instr i
        | none => .outOfDomain
      else .surplusFields
  | _ => .endOfStream

/-- The decoder: one line of the trace, without its line end (rules R80, R86). -/
def decodeLine (line : List Byte) : Decoded := decodeFields (splitFields line [])

/-- The bytes of a word of `n` bytes, the byte in bits 7..0 first (log 1). -/
def wordBytes : Nat → Nat → List Byte
  | 0, _ => []
  | n + 1, w => BitVec.ofNat 8 w :: wordBytes n (w / 256)

/-- The instruction the decoder reads from the `nbits / 8` bytes of `w`, the line's first character in bits 7..0 (log 1). -/
def decodeTableWord (nbits w : Nat) : Option Instr :=
  match decodeLine (wordBytes (nbits / 8) w) with
  | .instr i => some i
  | _ => none

/-! The encoder. The text form leaves open how many leading zeros, which case and which white space a line has; the
encoder writes the document's own style: no `0x`, no leading zero, lower case, single blanks (DESIGN CHOICE, log 20). -/

/-- The byte of a digit below 16, lower case. -/
def digitByte (d : Nat) : Byte := if d < 10 then BitVec.ofNat 8 (48 + d) else BitVec.ofNat 8 (87 + d)

/-- The digits of `n` in `base`, most significant first, at most `fuel + 1` of them. -/
def digitsOf (base : Nat) : Nat → Nat → List Byte
  | 0, n => [digitByte (n % base)]
  | fuel + 1, n => if n < base then [digitByte n] else digitsOf base fuel (n / base) ++ [digitByte (n % base)]

/-- The text of the field PC (rule R80): 64 bits are at most 16 hexadecimal digits. -/
def encodeHex (pc : Pc) : List Byte := digitsOf 16 15 pc.toNat

/-- The text of a register field (rules R80, R82): `-1` for none, else its decimal index. -/
def encodeReg : RegField → List Byte
  | none => [45, 49]
  | some r => digitsOf 10 1 r.val

/-- The text of the field opType (rule R80). -/
def encodeOp (t : OpType) : List Byte := [digitByte t.code]

/-- The trace line of an instruction (rules R80, R86). -/
def encode (i : Instr) : List Byte :=
  encodeHex i.pc ++ 32 :: (encodeOp i.op ++ 32 :: (encodeReg i.dst ++ 32 :: (encodeReg i.src1 ++ 32 :: encodeReg i.src2)))

/-- The bytes of a line as one number, the first byte in bits 7..0: the inverse of `wordBytes` (log 1). -/
def lineWord : List Byte → Nat
  | [] => 0
  | b :: bs => b.toNat + 256 * lineWord bs

end Sys2Proof
end

