-- ==== Sys2Proof/Machine/State.lean ====
section
/-!
DEFINITION. The state of the engine as plain data (spec file 10_state.md) and its value after reset (rule R40).
-/

namespace Sys2Proof.Machine

/-- The stamp and the duration of one stage (rule R21): `none` is the sentinel "unset". -/
structure StageTime where
  cyc : Option Nat
  dur : Nat
deriving DecidableEq, Repr

/-- The nine (stamp, duration) pairs of a record (rule R21). -/
structure Timings where
  fe : StageTime
  de : StageTime
  rn : StageTime
  rr : StageTime
  di : StageTime
  is : StageTime
  ex : StageTime
  wb : StageTime
  rt : StageTime
deriving DecidableEq, Repr

/-- An instruction record (rules R20 to R22). -/
structure InsRec where
  pc : Pc
  op : OpType
  dst : RegField
  src1 : RegField
  src2 : RegField
  seq : Nat
  times : Timings
  /-- The record's own ROB slot from Rename onward (rule R22). -/
  dstTag : Option Nat
  /-- The ROB slot of the producer of `src1`; `none` means available (rules R11, R22). -/
  src1Tag : Option Nat
  src2Tag : Option Nat
  /-- The document's `valid` flag, which no rule reads (rule R22). -/
  wbDone : Bool
deriving DecidableEq, Repr

/-- A ROB slot (rule R30). -/
structure RobSlot where
  valid : Bool
  ready : Bool
  ins : InsRec
  dstArf : RegField
deriving DecidableEq, Repr

/-- A Rename Map Table entry (rule R33). -/
structure RmtEntry where
  valid : Bool
  robTag : Nat
deriving DecidableEq, Repr

/-- An Issue Queue slot (rule R35). -/
structure IqSlot where
  valid : Bool
  ins : InsRec
deriving DecidableEq, Repr

/-- An entry of the execution list (rule R37); `rem` is the document's `remainingCycles`. -/
structure ExlEntry where
  ins : InsRec
  rem : Nat
deriving DecidableEq, Repr

/-- A timing record, emitted once per retired instruction (rule R90). It has no `pc`. -/
structure TimingRecord where
  seq : Nat
  op : OpType
  src1 : RegField
  src2 : RegField
  dst : RegField
  times : Timings
deriving DecidableEq, Repr

/-- A line of the trace without its line end (rule R80). -/
abbrev TraceLine := List Byte

/-- Everything the spec gives the engine (spec file 10_state.md), and what is left of the trace, which is state of the
trace source (rule R41, log 7). -/
structure State where
  /-- `ROB_SIZE`, `IQ_SIZE`, `WIDTH` (rule R29). -/
  cfg : Config
  /-- The cycle counter (rule R26). -/
  cycle : Nat
  /-- The sequence number of the next fetched instruction (rule R27). -/
  seqNext : Nat
  /-- End of stream has been seen (rule R28). -/
  traceDone : Bool
  /-- Fetched instructions awaiting Decode (rule R38); the head of the list is the oldest. -/
  de : List InsRec
  /-- Decoded instructions awaiting Rename (rule R38). -/
  rn : List InsRec
  /-- Renamed instructions awaiting Register-Read (rule R38). -/
  rr : List InsRec
  /-- Instructions awaiting Dispatch into the IQ (rule R38). -/
  di : List InsRec
  /-- Completed instructions awaiting Writeback (rule R38). -/
  wb : List InsRec
  /-- `EXL`, in insertion order (rule R37). -/
  exl : List ExlEntry
  /-- The Reorder Buffer, `ROB_SIZE` slots (rule R30). -/
  rob : List RobSlot
  /-- Next candidate to retire (rule R31). -/
  head : Nat
  /-- Next free slot (rule R31). -/
  tail : Nat
  /-- The Rename Map Table (rule R33). -/
  rmt : Vector RmtEntry numArf
  /-- The Issue Queue, `IQ_SIZE` slots (rule R35). -/
  iq : List IqSlot
  /-- `OUT`, oldest record first (rule R39). -/
  out : List TimingRecord
  /-- The lines the trace source has not delivered yet (rules R41, R61; log 7). -/
  trace : List TraceLine
deriving DecidableEq, Repr

/-- Why a step stops with a fault. There is no reason: "Once simulation begins it cannot fail" (rule R200), so this type
has no constructor. -/
inductive Fault where
deriving DecidableEq, Repr

/-- Why a step is refused. Each is safe: the model stops where the spec gives no behaviour. -/
inductive Refusal where
  /-- Raised by an arm of `exec` whose instruction has no meaning yet; there is none such. Safe. -/
  | notModelled (mnemonic : String)
  /-- Raised by Fetch where the next record has a field outside its domain: "an out-of-domain record cannot be delivered"
  (rule R85; log 10). Safe. -/
  | outOfDomainRecord
  /-- Raised by Fetch where the next line has more than five fields (rule R80, "each exactly five fields"; DESIGN CHOICE,
  log 8). Safe. -/
  | surplusFields
  /-- Raised by the step where a configuration parameter is 0: "zero is outside the domain and the model refuses it"
  (rule R232; log 13). Safe. -/
  | zeroParameter
deriving DecidableEq, Repr

/-- The stage has neither stamp nor duration yet (rules R21, R40). -/
def StageTime.unset : StageTime where
  cyc := none
  dur := 0

/-- No stage has a stamp (rule R40). -/
def Timings.unset : Timings where
  fe := .unset
  de := .unset
  rn := .unset
  rr := .unset
  di := .unset
  is := .unset
  ex := .unset
  wb := .unset
  rt := .unset

/-- The record that stands in a slot nothing has written: rule R40 leaves its content unspecified, "never read while
`valid` is false". DESIGN CHOICE (log 4), unsafe for a claim that reads an invalid slot. -/
def InsRec.blank : InsRec where
  pc := 0
  op := .t0
  dst := none
  src1 := none
  src2 := none
  seq := 0
  times := .unset
  dstTag := none
  src1Tag := none
  src2Tag := none
  wbDone := false

/-- A ROB slot at reset (rule R40); `ins` and `dstArf` are unspecified there (log 4). -/
def RobSlot.free : RobSlot where
  valid := false
  ready := false
  ins := .blank
  dstArf := none

/-- An IQ slot at reset (rule R40); `ins` is unspecified there (log 4). -/
def IqSlot.free : IqSlot where
  valid := false
  ins := .blank

/-- An RMT entry at reset (rule R40); `robTag` is unspecified there (log 4). -/
def RmtEntry.free : RmtEntry where
  valid := false
  robTag := 0

/-- The state before tick 0 with configuration `cfg` and a trace source about to deliver `trace` (rules R40, R230, R231). -/
def State.start (cfg : Config) (trace : List TraceLine) : State where
  cfg := cfg
  cycle := 0
  seqNext := 0
  traceDone := false
  de := []
  rn := []
  rr := []
  di := []
  wb := []
  exl := []
  rob := List.replicate cfg.robSize .free
  head := 0
  tail := 0
  rmt := Vector.replicate numArf .free
  iq := List.replicate cfg.iqSize .free
  out := []
  trace := trace

/-- The machine right after reset (rule R40), with the configuration of scenario S1 (DESIGN CHOICE, log 2) and nothing in
the trace source (log 3). -/
def State.reset : State := State.start .scenarioS1 []

end Sys2Proof.Machine
end

