-- ==== Sys2Proof/Machine/Flags.lean ====
section
/-!
DEFINITION. The engine has no condition codes (rule R25). What it has are Boolean bits, and this file holds every
predicate over them: free counts, emptiness, room, readiness, and the continue-condition of the driver.
-/

namespace Sys2Proof.Machine

/-- `RobFree()`: the number of ROB slots with `valid = false` (rule R113). -/
def State.robFree (s : State) : Nat := s.rob.countP fun x => !x.valid

/-- `IqFree()`: the number of IQ slots with `valid = false` (rule R114). -/
def State.iqFree (s : State) : Nat := s.iq.countP fun x => !x.valid

/-- `RobNonEmpty()` (rule R115). -/
def State.robNonEmpty (s : State) : Bool := s.rob.any fun x => x.valid

/-- `IqNonEmpty()` (rule R115). -/
def State.iqNonEmpty (s : State) : Bool := s.iq.any fun x => x.valid

/-- `room(B)` for a buffer of capacity `WIDTH` (rules R38, R116). -/
def State.room (s : State) (b : List InsRec) : Bool := decide (b.length < s.cfg.bufCap)

/-- `room(WB)` (rules R38, R116). -/
def State.wbRoom (s : State) : Bool := decide (s.wb.length < s.cfg.wbCap)

/-- The ROB admits a group: at least `WIDTH` slots are free (rules R113, R131). -/
def State.robAdmits (s : State) : Bool := decide (s.cfg.width ≤ s.robFree)

/-- The IQ admits a group: at least `WIDTH` slots are free (rules R114, R143). -/
def State.iqAdmits (s : State) : Bool := decide (s.cfg.width ≤ s.iqFree)

/-- Both source tags are `none`: every operand is available (rules R22, R36). -/
def InsRec.ready (i : InsRec) : Bool := i.src1Tag.isNone && i.src2Tag.isNone

/-- The slot may be selected by Issue (rules R36, R152). -/
def IqSlot.selectable (x : IqSlot) : Bool := x.valid && x.ins.ready

/-- The driver's continue-condition (rule R112). -/
def State.continues (s : State) : Bool :=
  !s.de.isEmpty || !s.rn.isEmpty || !s.rr.isEmpty || !s.di.isEmpty || !s.wb.isEmpty || !s.exl.isEmpty
    || s.iqNonEmpty || s.robNonEmpty || !s.traceDone

/-- The status output `done` (rule R10). -/
def State.done (s : State) : Bool := !s.continues

end Sys2Proof.Machine
end

