-- ==== Sys2Proof/Machine/Ops.lean ====
section
/-!
DEFINITION. The named operations the stages share: reading and writing stamps and durations (rule R117), the ready-snap
(rule R140), the wakeup broadcast (rule R160), the ROB pointer step (rule R31), the execution latencies (rule R154) and
the creation of an instruction record (rule R87). The engine takes no exception and returns from none (rules R200, R203,
R206, R207), so there is no operation for either.
-/

namespace Sys2Proof.Machine

/-- The (stamp, duration) pair of a stage (rule R21). -/
def Timings.get (t : Timings) : Stage → StageTime
  | .fe => t.fe
  | .de => t.de
  | .rn => t.rn
  | .rr => t.rr
  | .di => t.di
  | .is => t.is
  | .ex => t.ex
  | .wb => t.wb
  | .rt => t.rt

/-- `t` with the pair of one stage replaced. -/
def Timings.set (t : Timings) (st : Stage) (v : StageTime) : Timings :=
  match st with
  | .fe => { t with fe := v }
  | .de => { t with de := v }
  | .rn => { t with rn := v }
  | .rr => { t with rr := v }
  | .di => { t with di := v }
  | .is => { t with is := v }
  | .ex => { t with ex := v }
  | .wb => { t with wb := v }
  | .rt => { t with rt := v }

/-- `i.cyc[s]` (rule R11). -/
def InsRec.cyc (i : InsRec) (st : Stage) : Option Nat := (i.times.get st).cyc

/-- `i.dur[s]` (rule R11). -/
def InsRec.dur (i : InsRec) (st : Stage) : Nat := (i.times.get st).dur

/-- The stamp a stage leaves on a pair in cycle `c`: an unset stamp becomes `c`, a set one stays (rule R117). -/
def StageTime.stamp (v : StageTime) (c : Nat) : StageTime :=
  { v with cyc := match v.cyc with
      | none => some c
      | some a => some a }

/-- The duration a stage writes when it hands the instruction on in cycle `c`: `c - cyc + 1` (rule R117). Every stage
stamps before it hands on, so the stamp is set; a pair without a stamp keeps its duration (log 12). -/
def StageTime.leave (v : StageTime) (c : Nat) : StageTime :=
  { v with dur := match v.cyc with
      | none => v.dur
      | some a => c - a + 1 }

/-- Stage `st` observes the record in cycle `c` (rule R117). -/
def InsRec.stamp (i : InsRec) (st : Stage) (c : Nat) : InsRec :=
  { i with times := i.times.set st ((i.times.get st).stamp c) }

/-- Stage `st` hands the record on in cycle `c` (rule R117). -/
def InsRec.leave (i : InsRec) (st : Stage) (c : Nat) : InsRec :=
  { i with times := i.times.set st ((i.times.get st).leave c) }

/-- The stamp of a whole buffer: "for each i in B" (rules R117, R125, R130, R138, R142, R170). -/
def stampAll (b : List InsRec) (st : Stage) (c : Nat) : List InsRec := b.map fun i => i.stamp st c

/-- `(p + 1) mod ROB_SIZE` (rules R7, R31). -/
def robSucc (c : Config) (p : Nat) : Nat := (p + 1) % c.robSize

/-- `rob[t].ready`; a number that is no ROB index names no slot and no ready bit (log 12). -/
def robReady (rob : List RobSlot) (t : Nat) : Bool :=
  match rob[t]? with
  | some x => x.ready
  | none => false

/-- The snap of one source tag: it becomes `none` where the slot it names is `ready`; `valid` is not tested (rule R140). -/
def snapTag (rob : List RobSlot) (t : Option Nat) : Option Nat :=
  match t with
  | none => none
  | some k => if robReady rob k then none else some k

/-- `Snap(i)` (rule R140). -/
def InsRec.snap (i : InsRec) (rob : List RobSlot) : InsRec :=
  { i with src1Tag := snapTag rob i.src1Tag, src2Tag := snapTag rob i.src2Tag }

/-- One source tag under a broadcast of `t` (rule R160). -/
def wakeTag (t src : Option Nat) : Option Nat := if src = t then none else src

/-- One instruction under a broadcast of `t` (rule R160). -/
def InsRec.wake (i : InsRec) (t : Option Nat) : InsRec :=
  { i with src1Tag := wakeTag t i.src1Tag, src2Tag := wakeTag t i.src2Tag }

/-- One IQ slot under a broadcast of `t`: only valid slots are scanned (rule R160). -/
def IqSlot.wake (x : IqSlot) (t : Option Nat) : IqSlot := if x.valid then { x with ins := x.ins.wake t } else x

/-- `Broadcast(t)`: every instruction in the IQ, in DI and in RR, and nothing else (rule R160). -/
def State.broadcast (s : State) (t : Option Nat) : State :=
  { s with
    iq := s.iq.map fun x => x.wake t
    di := s.di.map fun i => i.wake t
    rr := s.rr.map fun i => i.wake t }

/-- `LAT(0)` (rules R6, R101, R154). -/
def latOp0 : Nat := 1

/-- `LAT(1)` (rules R6, R102, R154). -/
def latOp1 : Nat := 2

/-- `LAT(2)` (rules R6, R103, R154). -/
def latOp2 : Nat := 5

/-- `LAT`, the only use of the operation type (rules R100, R154). -/
def latency : OpType → Nat
  | .t0 => latOp0
  | .t1 => latOp1
  | .t2 => latOp2

/-- The record Fetch makes of a delivered instruction in cycle `c` with sequence number `n` (rules R40, R87, R121). -/
def InsRec.create (op : OpType) (pc : Pc) (dst src1 src2 : RegField) (n c : Nat) : InsRec where
  pc := pc
  op := op
  dst := dst
  src1 := src1
  src2 := src2
  seq := n
  times := { Timings.unset with fe := { cyc := some c, dur := 1 } }
  dstTag := none
  src1Tag := none
  src2Tag := none
  wbDone := false

/-- Fetch may take a record: the end of the stream is not latched and DE has room (rule R120). -/
def State.fetchOpen (s : State) : Bool := !s.traceDone && s.room s.de

/-- Fetch takes one delivered record: it makes the instruction record and pushes it to DE, where Fetch may take one; else it
does nothing (rules R87, R120, R121). -/
def State.fetchOne (s : State) (op : OpType) (pc : Pc) (dst src1 src2 : RegField) : State :=
  { s with
    de := if s.fetchOpen then s.de ++ [InsRec.create op pc dst src1 src2 s.seqNext s.cycle] else s.de
    seqNext := if s.fetchOpen then s.seqNext + 1 else s.seqNext }

/-- The timing record of a retiring instruction (rules R90, R178). -/
def InsRec.timing (i : InsRec) : TimingRecord where
  seq := i.seq
  op := i.op
  src1 := i.src1
  src2 := i.src2
  dst := i.dst
  times := i.times

end Sys2Proof.Machine
end

