-- ==== Sys2Proof/Machine/Operands.lean ====
section
/-!
DEFINITION. The operand forms. A register operand is a name (rule R23): a source is the RMT lookup at Rename (rule R133), a
destination is the RMT update at Rename (rule R134) and the conditional clear at Retire (rule R177). `none` in a source
is always available, in a destination it maps nothing (rule R107).
-/

namespace Sys2Proof.Machine

/-- The tag a source takes at Rename: the slot of the most recent unretired producer, `none` where there is none (rule
R133). -/
def sourceTag (rmt : Vector RmtEntry numArf) (src : RegField) : Option Nat :=
  match src with
  | none => none
  | some r => if rmt[r].valid then some rmt[r].robTag else none

/-- The destination mapping at Rename: `dst` now names slot `t` (rule R134). -/
def mapDest (rmt : Vector RmtEntry numArf) (dst : RegField) (t : Nat) : Vector RmtEntry numArf :=
  match dst with
  | none => rmt
  | some r => rmt.set r { valid := true, robTag := t }

/-- The conditional clear at Retire of the slot `h`: only where the entry still names `h`; `robTag` keeps its value
(rules R33, R177). -/
def clearDest (rmt : Vector RmtEntry numArf) (dst : RegField) (h : Nat) : Vector RmtEntry numArf :=
  match dst with
  | none => rmt
  | some r =>
    if rmt[r].valid = true ∧ rmt[r].robTag = h then rmt.set r { rmt[r] with valid := false } else rmt

end Sys2Proof.Machine
end

