-- ==== Sys2Proof/Machine/Backend.lean ====
section
/-!
DEFINITION. Retire and Writeback (spec file 45_writeback_retire.md), the first two stage operations of a tick.
-/

namespace Sys2Proof.Machine

/-- The stamp of Retire: every valid ready slot, not only the head (rule R175). -/
def RobSlot.stampRetire (x : RobSlot) (c : Nat) : RobSlot :=
  if x.valid && x.ready then { x with ins := x.ins.stamp .rt c } else x

/-- Retirement of the slot `x` that stands at `head`: the record is emitted, the RMT entry of its destination is cleared if
it still names the slot, the slot is freed with its `ready` bit unchanged, `head` advances (rules R176 to R179). -/
def State.retireOne (s : State) (x : RobSlot) : State :=
  { s with
    out := s.out ++ [(x.ins.leave .rt s.cycle).timing]
    rmt := clearDest s.rmt x.dstArf s.head
    rob := s.rob.set s.head { x with valid := false }
    head := robSucc s.cfg s.head }

/-- The in-order loop of Retire, at most the given number of times: it stops at a head that is not valid and ready (rule
R176). A `head` that is no ROB index stops it too (log 12). -/
def State.retireLoop (s : State) : Nat → State
  | 0 => s
  | n + 1 =>
    match s.rob[s.head]? with
    | none => s
    | some x => if x.valid && x.ready then (s.retireOne x).retireLoop n else s

/-- Retire (rules R175, R176). -/
def State.retire (s : State) : State :=
  { s with rob := s.rob.map fun (x : RobSlot) => x.stampRetire s.cycle }.retireLoop s.cfg.width

/-- The slot Writeback locates: occupied, and holding the sequence number (rules R171, R172). -/
def RobSlot.holds (x : RobSlot) (n : Nat) : Bool := x.valid && decide (x.ins.seq = n)

/-- Writeback of one record into the first slot that holds its sequence number: `ready` is set and the record copied with
its final timing (rules R171, R172). The search always succeeds on a reachable state (rule R172); where no slot holds the
number nothing is written (log 12). -/
def writebackRob : List RobSlot → InsRec → List RobSlot
  | [], _ => []
  | x :: xs, i => if x.holds i.seq then { x with ready := true, ins := i } :: xs else x :: writebackRob xs i

/-- The drain of Writeback, head first, with no limit of `WIDTH` (rule R171). -/
def writebackAll (c : Nat) : List InsRec → List RobSlot → List RobSlot
  | [], rob => rob
  | i :: is, rob => writebackAll c is (writebackRob rob (i.leave .wb c))

/-- Writeback: the stamp (rule R170), then the drain (rule R171). -/
def State.writeback (s : State) : State :=
  { s with
    rob := writebackAll s.cycle (stampAll s.wb .wb s.cycle) s.rob
    wb := [] }

end Sys2Proof.Machine
end

