-- ==== Sys2Proof/Machine/OpClasses.lean ====
section
/-!
DEFINITION. The meanings of the three instruction classes (rules R101 to R103). An instruction computes nothing; its
meaning is its entry into the engine when the trace port delivers it, the first step of the lifecycle of rule R100. The rest
of the lifecycle is the work of the later ticks on the record made here (Machine/FrontEnd.lean, IssueExecute.lean,
Backend.lean), and the class is read there in exactly one place, the latency lookup of Issue (rules R100, R154). Each class
has its own latency, `latOp0`, `latOp1`, `latOp2` in Machine/Ops.lean.
-/

namespace Sys2Proof.Machine

/-- `OP0` (rule R101): Fetch makes a record of operation type 0, whose execution takes `latOp0`. -/
def execOp0 (pc : Pc) (dst src1 src2 : RegField) (s : State) : Host.Outcome State Fault Refusal :=
  .next (s.fetchOne .t0 pc dst src1 src2)

/-- `OP1` (rule R102): Fetch makes a record of operation type 1, whose execution takes `latOp1`. -/
def execOp1 (pc : Pc) (dst src1 src2 : RegField) (s : State) : Host.Outcome State Fault Refusal :=
  .next (s.fetchOne .t1 pc dst src1 src2)

/-- `OP2` (rule R103): Fetch makes a record of operation type 2, whose execution takes `latOp2`. -/
def execOp2 (pc : Pc) (dst src1 src2 : RegField) (s : State) : Host.Outcome State Fault Refusal :=
  .next (s.fetchOne .t2 pc dst src1 src2)

end Sys2Proof.Machine
end

