-- ==== Sys2Proof/Machine/Dispatch.lean ====
section
/-!
DEFINITION. The meaning of each instruction, one arm per constructor of `Instr`. (The pipeline stage that the manual calls
Dispatch is in Machine/FrontEnd.lean.)
-/

namespace Sys2Proof.Machine

def exec (i : Instr) (s : State) : Host.Outcome State Fault Refusal :=
  match i with
  | .op0 pc dst src1 src2 => Sys2Proof.Machine.execOp0 pc dst src1 src2 s
  | .op1 pc dst src1 src2 => Sys2Proof.Machine.execOp1 pc dst src1 src2 s
  | .op2 pc dst src1 src2 => Sys2Proof.Machine.execOp2 pc dst src1 src2 s

end Sys2Proof.Machine
end

