-- ==== Sys2Proof/Machine/FrontEnd.lean ====
section
/-!
DEFINITION. The stages Dispatch, Register-Read, Rename (spec file 43_rename_regread_dispatch.md) and Decode (spec file
42_fetch_decode.md), in the order a tick runs them. Each stamps its buffer first, then moves from the head.
-/

namespace Sys2Proof.Machine

/-- The least index of an empty IQ slot (rule R144). -/
def freeSlot : List IqSlot → Option Nat
  | [] => none
  | x :: xs => if x.valid then (freeSlot xs).map (· + 1) else some 0

/-- The record Dispatch places in the IQ: snapped, with its duration (rule R143). -/
def InsRec.dispatched (i : InsRec) (rob : List RobSlot) (c : Nat) : InsRec := (i.snap rob).leave .di c

/-- The moves of Dispatch: each record of DI, head first, goes to the least empty slot (rules R143, R144). A record for which
no slot is empty stays, and the rest behind it (log 12; after the admission test there is always one, rule R143). -/
def State.dispatchLoop (s : State) : List InsRec → State
  | [] => { s with di := [] }
  | i :: is =>
    match freeSlot s.iq with
    | none => { s with di := i :: is }
    | some k => { s with iq := s.iq.set k { valid := true, ins := i.dispatched s.rob s.cycle } }.dispatchLoop is

/-- Dispatch: the stamp (rule R142), the admission test, made once (rule R143), the moves. -/
def State.dispatch (s : State) : State :=
  if s.iqAdmits then s.dispatchLoop (stampAll s.di .di s.cycle)
  else { s with di := stampAll s.di .di s.cycle }

/-- The moves "while B has room" of Register-Read and Decode: from the head of the first list to the end of the second, each
record changed by `f` as it moves; the answer is what stays and what the second list becomes (rules R116, R126, R139). -/
def moveWhile (cap : Nat) (f : InsRec → InsRec) : List InsRec → List InsRec → List InsRec × List InsRec
  | [], dst => ([], dst)
  | i :: is, dst => if dst.length < cap then moveWhile cap f is (dst ++ [f i]) else (i :: is, dst)

/-- What Register-Read does to a record that moves: the snap, then the duration (rule R139). -/
def InsRec.regRead (i : InsRec) (rob : List RobSlot) (c : Nat) : InsRec := (i.snap rob).leave .rr c

/-- Register-Read: the stamp (rule R138), then the moves while DI has room (rule R139). -/
def State.regRead (s : State) : State :=
  let m := moveWhile s.cfg.bufCap (fun i => i.regRead s.rob s.cycle) (stampAll s.rr .rr s.cycle) s.di
  { s with rr := m.1, di := m.2 }

/-- The record as Rename hands it on: source tags from the RMT as it stands before the destination is mapped, its own slot
as `dstTag`, its duration (rule R132 steps 2 and 4). -/
def InsRec.renamed (i : InsRec) (rmt : Vector RmtEntry numArf) (t c : Nat) : InsRec :=
  { i.leave .rn c with
    src1Tag := match sourceTag rmt i.src1 with
      | some k => some k
      | none => i.src1Tag
    src2Tag := match sourceTag rmt i.src2 with
      | some k => some k
      | none => i.src2Tag
    dstTag := some t }

/-- Rename of one record (rule R132): step 1 allocates `rob[tail]`, with a copy of the record as it is then (rule R42, log
11), steps 2 to 4 as in `InsRec.renamed` and `mapDest`, step 5 pushes to RR and advances `tail` (rule R135). -/
def State.renameOne (s : State) (i : InsRec) : State :=
  { s with
    rob := s.rob.set s.tail { valid := true, ready := false, ins := i, dstArf := i.dst }
    rmt := mapDest s.rmt i.dst s.tail
    rr := s.rr ++ [i.renamed s.rmt s.tail s.cycle]
    tail := robSucc s.cfg s.tail }

/-- The moves of Rename while RN is non-empty and RR has room; the ROB test is not repeated (rule R131). -/
def State.renameLoop (s : State) : List InsRec → State
  | [] => { s with rn := [] }
  | i :: is => if s.room s.rr then (s.renameOne i).renameLoop is else { s with rn := i :: is }

/-- Rename: the stamp (rule R130), the ROB admission test, made once (rule R131), the moves. -/
def State.rename (s : State) : State :=
  if s.robAdmits then s.renameLoop (stampAll s.rn .rn s.cycle)
  else { s with rn := stampAll s.rn .rn s.cycle }

/-- Decode: the stamp (rule R125), then the moves while RN has room (rule R126). -/
def State.decode (s : State) : State :=
  let m := moveWhile s.cfg.bufCap (fun i => i.leave .de s.cycle) (stampAll s.de .de s.cycle) s.rn
  { s with de := m.1, rn := m.2 }

end Sys2Proof.Machine
end

