-- ==== Sys2Proof/Machine/IssueExecute.lean ====
section
/-!
DEFINITION. Execute with the wakeup broadcast, and Issue (spec file 44_issue_execute.md). Execute runs before Issue in a
tick, so Issue sees the tags that Execute cleared (rule R163).
-/

namespace Sys2Proof.Machine

/-- The stamp and the count down of one entry: the decrement stops at 0 (rules R157, R158). -/
def ExlEntry.countDown (e : ExlEntry) (c : Nat) : ExlEntry where
  ins := e.ins.stamp .ex c
  rem := e.rem - 1

/-- The record of an entry that completes in cycle `c`: its duration is finalized and its flag set (rule R159). -/
def ExlEntry.finish (e : ExlEntry) (c : Nat) : InsRec := { e.ins.leave .ex c with wbDone := true }

/-- Completion of one entry: the broadcast, then the move to WB; where WB has no room the entry is kept with `rem = 0`
(rules R159 to R161). `s.exl` holds the entries of the tick that stay, so far. -/
def State.completeOne (s : State) (e : ExlEntry) : State :=
  { s.broadcast e.ins.dstTag with
    wb := if s.wbRoom then s.wb ++ [e.finish s.cycle] else s.wb
    exl := if s.wbRoom then s.exl else s.exl ++ [{ ins := e.finish s.cycle, rem := 0 }] }

/-- The single pass over the list, each entry once, in list order (rules R159, R162). -/
def State.completeLoop (s : State) : List ExlEntry → State
  | [] => s
  | e :: es => (if e.rem = 0 then s.completeOne e else { s with exl := s.exl ++ [e] }).completeLoop es

/-- Execute: stamp and count down every entry (rules R157, R158), then the completions (rule R159). -/
def State.execute (s : State) : State :=
  { s with exl := [] }.completeLoop (s.exl.map fun (e : ExlEntry) => e.countDown s.cycle)

/-- The stamp of Issue: every valid slot (rule R151). -/
def IqSlot.stampIssue (x : IqSlot) (c : Nat) : IqSlot := if x.valid then { x with ins := x.ins.stamp .is c } else x

/-- The age of a record for Issue: its fetch cycle (rule R152). Every record has one from its creation on; a record without
would count as the oldest (log 12). -/
def InsRec.age (i : InsRec) : Nat := (i.cyc .fe).getD 0

/-- The pair (fetch cycle, index) of the ready entry that comes first in lexicographic order, none where no entry is ready
(rule R152). -/
def oldestReady : List IqSlot → Option (Nat × Nat)
  | [] => none
  | x :: xs =>
    match oldestReady xs with
    | none => if x.selectable then some (x.ins.age, 0) else none
    | some (a, k) => if x.selectable && decide (x.ins.age ≤ a) then some (x.ins.age, 0) else some (a, k + 1)

/-- Issue of the slot `x` that stands at index `k`: `dur[IS]`, a new entry at the end of EXL with `rem = LAT(op)`, the slot is
freed (rules R153, R154). -/
def State.issueOne (s : State) (k : Nat) (x : IqSlot) : State :=
  { s with
    exl := s.exl ++ [{ ins := x.ins.leave .is s.cycle, rem := latency x.ins.op }]
    iq := s.iq.set k { x with valid := false } }

/-- The selections of Issue, at most the given number; each sees the IQ as the one before left it (rule R152). -/
def State.issueLoop (s : State) : Nat → State
  | 0 => s
  | n + 1 =>
    match oldestReady s.iq with
    | none => s
    | some (_, k) =>
      match s.iq[k]? with
      | none => s
      | some x => (s.issueOne k x).issueLoop n

/-- The cap guard of Issue: the list already holds `5 * WIDTH` entries (rule R150). -/
def State.exlFull (s : State) : Bool := decide (s.cfg.exCap ≤ s.exl.length)

/-- Issue: the cap guard, before the stamp (rule R150), the stamp (rule R151), the selections (rule R152). -/
def State.issue (s : State) : State :=
  if s.exlFull then s
  else { s with iq := s.iq.map fun (x : IqSlot) => x.stampIssue s.cycle }.issueLoop s.cfg.width

end Sys2Proof.Machine
end

