-- ==== Sys2Proof/Machine/Fetch.lean ====
section
/-!
DEFINITION. The trace port, Fetch (spec file 42_fetch_decode.md) and the tick (spec file 41_cycle_driver.md). Fetch gives each
delivered instruction to `exec`.
-/

namespace Sys2Proof.Machine

/-- One outcome after another: a fault or a refusal ends the tick. -/
def andThen (o : Host.Outcome State Fault Refusal) (f : State → Host.Outcome State Fault Refusal) :
    Host.Outcome State Fault Refusal :=
  match o with
  | .next s => f s
  | .fault r => .fault r
  | .refused r => .refused r

/-- What `TraceNext()` will answer: the next line decoded, or the end of the stream (rules R10, R61, R84). -/
def traceAnswer : List TraceLine → Decoded
  | [] => .endOfStream
  | line :: _ => decodeLine line

/-- Latch of the end of stream: `traceDone` is set and every line after it is ignored (rules R28, R84, R121; log 7). -/
def State.latchEnd (s : State) : State := { s with traceDone := true, trace := [] }

/-- `TraceNext()` consumes the record it delivers (rules R61, R65). -/
def State.consume (s : State) : State := { s with trace := s.trace.tail }

/-- The read loop of Fetch, at most the given number of records: room in DE is tested before each (rules R120, R121). A
record outside its domain is refused at the port (rule R85, log 10), a line with surplus fields too (log 8). -/
def fetchLoop : Nat → State → Host.Outcome State Fault Refusal
  | 0, s => .next s
  | n + 1, s =>
    if s.room s.de then
      match traceAnswer s.trace with
      | .instr i => andThen (exec i s.consume) (fetchLoop n)
      | .endOfStream => .next s.latchEnd
      | .outOfDomain => .refused .outOfDomainRecord
      | .surplusFields => .refused .surplusFields
    else .next s

/-- Fetch (rules R120, R121). -/
def fetch (s : State) : Host.Outcome State Fault Refusal :=
  if s.traceDone then .next s else fetchLoop s.cfg.width s

/-- The eight stage operations a tick runs before Fetch, in reverse pipeline order (rule R110). -/
def State.stages (s : State) : State :=
  s.retire.writeback.execute.issue.dispatch.regRead.rename.decode

/-- The last action of a tick (rule R111). -/
def State.advance (s : State) : State := { s with cycle := s.cycle + 1 }

/-- One tick: the nine stage operations, each to completion before the next, then `cycle + 1` (rules R110, R111). -/
def tick (s : State) : Host.Outcome State Fault Refusal :=
  andThen (fetch s.stages) fun t => .next t.advance

/-- One step of the driver: a tick where the continue-condition holds, else the engine has stopped and nothing changes
(rule R112; log 6). A configuration with a zero parameter is refused (rule R232, log 13). -/
def driverStep (s : State) : Host.Outcome State Fault Refusal :=
  if s.cfg.wellFormed then (if s.continues then tick s else .next s) else .refused .zeroParameter

/-- The state with one line left in the trace source, so placed that Fetch of the next tick takes it: the end of stream is
not latched and, where the tick would leave DE without room for Fetch, DE is emptied (log 3, log 16). -/
def State.withLine (s : State) (line : TraceLine) : State :=
  let t := { s with traceDone := false, trace := [line] }
  if t.stages.room t.stages.de then t else { t with de := [] }

end Sys2Proof.Machine
end

