-- ==== Sys2Proof/Machine/Step.lean ====
section
/-!
DEFINITION. One step of the machine is one step of the driver (rules R8, R110 to R112).
-/

namespace Sys2Proof.Machine

/-- One step: one tick of the engine, or nothing once the driver has stopped. -/
def step (s : State) : Host.Outcome State Fault Refusal := driverStep s

/-- `s` with the line whose bytes are those of `w` as the only line the trace source has left, placed where the next step
fetches it (log 1, log 3, log 16). -/
def State.withFetchWord (s : State) (nbits w : Nat) : State := s.withLine (wordBytes (nbits / 8) w)

end Sys2Proof.Machine
end

