-- ==== Sys2Proof/Machine/Output.lean ====
section
/-!
DEFINITION. What is observed of a run: the triple (OUT, COUNT, CYCLES) (rule R9), the IPC formed from it (rule R209), and the
text line of a timing record. The line is informative and outside the engine (rule R91); no stage uses this file.
-/

namespace Sys2Proof.Machine

/-- The observation (rule R9). -/
structure Observation where
  out : List TimingRecord
  count : Nat
  cycles : Nat
deriving DecidableEq, Repr

/-- The observation of a state; it is that of the run where the driver has stopped (rules R9, R112). -/
def State.observe (s : State) : Observation where
  out := s.out
  count := s.seqNext
  cycles := s.cycle

/-- The exact rational COUNT / CYCLES (rules R209, R248); its decimal rendering is the host's (log 18). -/
def Observation.ipc (o : Observation) : Rat := (o.count : Rat) / (o.cycles : Rat)

/-- A natural number in decimal. -/
def decimal (n : Nat) : List Byte := digitsOf 10 n n

/-- A pair `c,d` between braces (rule R91). -/
def bracedPair (a b : List Byte) : List Byte := 123 :: (a ++ 44 :: (b ++ [125]))

/-- The two capital letters of a stage in the output line (rule R91). -/
def stageName : Stage → List Byte
  | .fe => [70, 69]
  | .de => [68, 69]
  | .rn => [82, 78]
  | .rr => [82, 82]
  | .di => [68, 73]
  | .is => [73, 83]
  | .ex => [69, 88]
  | .wb => [87, 66]
  | .rt => [82, 84]

/-- One stage of the output line with the blank before it. Every stamp of an emitted record is set (rule R90); an unset one
prints as nothing. -/
def stageText (t : Timings) (st : Stage) : List Byte :=
  32 :: (stageName st ++ bracedPair (((t.get st).cyc.map decimal).getD []) (decimal (t.get st).dur))

/-- The output line of a timing record (rule R91). -/
def TimingRecord.line (r : TimingRecord) : List Byte :=
  decimal r.seq ++ [32, 102, 117, 123] ++ encodeOp r.op ++ [125, 32, 115, 114, 99]
    ++ bracedPair (encodeReg r.src1) (encodeReg r.src2) ++ [32, 100, 115, 116, 123] ++ encodeReg r.dst ++ [125]
    ++ ([Stage.fe, .de, .rn, .rr, .di, .is, .ex, .wb, .rt].map (stageText r.times)).flatten

end Sys2Proof.Machine
end

