-- ==== Sys2Proof/Safety.lean ====
section
/-!
DEFINITION. What counts as a sound state and a safe run, in the terms the claims use: runs of steps, the invariants of the
Reorder Buffer and the Rename Map Table (rules R32, R34, R246), program order (rule R241), the timing invariants (rules R237, R239,
R242 to R244), the records in flight and their slots (rule R172), the wakeup invariant (rules R236, R238, R246, R251), and the
state at the end of a run (rule R43).
-/

namespace Sys2Proof.Machine

/-- `n` steps, stopping at the first fault or refusal. -/
def run : Nat → State → Host.Outcome State Fault Refusal
  | 0, s => .next s
  | n + 1, s => andThen (step s) (run n)

/-- A state some run reaches from a start with a well-formed configuration and any trace (rules R230, R231). -/
def Reachable (s : State) : Prop :=
  ∃ cfg trace n, Config.wellFormed cfg = true ∧ run n (State.start cfg trace) = .next s

/-- The answer of the trace port for a line is a record or `end`: the line is not refused (rules R84, R85). -/
def lineInDomain (line : TraceLine) : Bool :=
  match decodeLine line with
  | .instr _ => true
  | .endOfStream => true
  | .outOfDomain => false
  | .surplusFields => false

/-- The line carries an instruction. -/
def lineIsRecord (line : TraceLine) : Bool :=
  match decodeLine line with
  | .instr _ => true
  | .endOfStream => false
  | .outOfDomain => false
  | .surplusFields => false

/-- Array sizes, pointer ranges and buffer capacities (rules R30, R31, R35, R38). -/
structure Sized (s : State) : Prop where
  cfg : s.cfg.wellFormed = true
  rob : s.rob.length = s.cfg.robSize
  iq : s.iq.length = s.cfg.iqSize
  head : s.head < s.cfg.robSize
  tail : s.tail < s.cfg.robSize
  de : s.de.length ≤ s.cfg.bufCap
  rn : s.rn.length ≤ s.cfg.bufCap
  rr : s.rr.length ≤ s.cfg.bufCap
  di : s.di.length ≤ s.cfg.bufCap
  wb : s.wb.length ≤ s.cfg.wbCap

/-- The ROB index `k` places after `head` (rule R31). -/
def State.robIndex (s : State) (k : Nat) : Nat := (s.head + k) % s.cfg.robSize

/-- The ROB slots from `head` on, `n` of them. -/
def State.robSlots (s : State) (n : Nat) : List RobSlot := (List.range n).filterMap fun k => s.rob[s.robIndex k]?

/-- Exactly the `n` slots from `head` on are occupied, and `tail` is the place after them (rule R32 I1). -/
structure Occupied (s : State) (n : Nat) : Prop where
  le : n ≤ s.cfg.robSize
  tail : s.tail = s.robIndex n
  valid : ∀ k, k < s.cfg.robSize → (s.rob[s.robIndex k]?).map (·.valid) = some (decide (k < n))

/-- The sequence numbers of every instruction fetched so far: those emitted, those in the ROB from `head` on, those in RN,
those in DE. -/
def State.programSeqs (s : State) (n : Nat) : List Nat :=
  s.out.map (·.seq) ++ (s.robSlots n).map (·.ins.seq) ++ s.rn.map (·.seq) ++ s.de.map (·.seq)

/-- Program order: the ROB is contiguous, and the instructions fetched so far stand in the machine in sequence order, each
exactly once (rules R32 I1 and I3, R122, R241). -/
def ProgramOrder (s : State) : Prop := ∃ n, Occupied s n ∧ s.programSeqs n = List.range s.seqNext

/-- The RMT: a valid entry names an occupied slot whose destination is that register (rule R34, R1), the youngest such slot, and a
register with an occupied slot has a valid entry; so the lookup of Rename finds the most recent unretired producer (rules R33,
R133, R246). -/
structure RmtSound (s : State) : Prop where
  names : ∀ r : ArfIndex, s.rmt[r].valid = true →
    ∃ x, s.rob[s.rmt[r].robTag]? = some x ∧ x.valid = true ∧ x.dstArf = some r ∧
      ∀ y ∈ s.rob, y.valid = true → y.dstArf = some r → y.ins.seq ≤ x.ins.seq
  mapped : ∀ (r : ArfIndex) (y : RobSlot), y ∈ s.rob → y.valid = true → y.dstArf = some r → s.rmt[r].valid = true

/-- Stage `p` of a (stamp, duration) table is complete and hands on to `q` whose stamp, or the cycle `c` where it has none
yet, is `cyc[p] + dur[p]` (rule R243). -/
def Timings.linked (t : Timings) (p q : Stage) (c : Nat) : Prop :=
  ∃ a, (t.get p).cyc = some a ∧ 1 ≤ (t.get p).dur ∧ ((t.get q).cyc).getD c = a + (t.get p).dur

/-- A record that waits at stage `st` between two ticks, the next one being tick `c`: every earlier stage is complete and
linked, its own stamp is older than `c` where it is set, and no later stage has one (rules R117, R242, R243). -/
structure AtStage (i : InsRec) (st : Stage) (c : Nat) : Prop where
  linked : ∀ p q, p.next = some q → q.place ≤ st.place → i.times.linked p q c
  own : ∀ a, i.cyc st = some a → a < c
  later : ∀ q : Stage, st.place < q.place → i.cyc q = none
  fetch : i.dur .fe = 1

/-- The count down of an entry of EXL before tick `c`: not yet begun, or begun at its stamp (rules R104, R157, R158). -/
def ExlEntry.onTime (e : ExlEntry) (c : Nat) : Prop :=
  1 ≤ e.rem ∧ match e.ins.cyc .ex with
    | none => e.rem = latency e.ins.op
    | some a => e.rem + (c - a) = latency e.ins.op

/-- A timing record whose nine stages are all stamped and linked, with the durations that are constants (rules R242 to R244,
R90). -/
structure TimingRecord.Complete (r : TimingRecord) : Prop where
  linked : ∀ p q, p.next = some q → ∃ a, (r.times.get p).cyc = some a ∧ 1 ≤ (r.times.get p).dur ∧
    (r.times.get q).cyc = some (a + (r.times.get p).dur)
  fetch : (r.times.get .fe).dur = 1
  execute : (r.times.get .ex).dur = latency r.op
  writeback : (r.times.get .wb).dur = 1
  retire : 1 ≤ (r.times.get .rt).dur

/-- Every instruction in flight is on time: its record satisfies `AtStage` for the place it is in, EXL holds at most `WIDTH`
entries per execute stamp and at most `WIDTH` unstamped ones (rule R239), a ready slot holds the final timing (rule R32 I2),
and every emitted record is complete. -/
structure Timed (s : State) : Prop where
  de : ∀ i ∈ s.de, AtStage i .de s.cycle
  rn : ∀ i ∈ s.rn, AtStage i .rn s.cycle
  rr : ∀ i ∈ s.rr, AtStage i .rr s.cycle
  di : ∀ i ∈ s.di, AtStage i .di s.cycle
  iq : ∀ x ∈ s.iq, x.valid = true → AtStage x.ins .is s.cycle
  exl : ∀ e ∈ s.exl, AtStage e.ins .ex s.cycle ∧ e.onTime s.cycle
  exlCount : ∀ stamp : Option Nat, s.exl.countP (fun e => decide (e.ins.cyc .ex = stamp)) ≤ s.cfg.width
  wb : ∀ i ∈ s.wb, AtStage i .wb s.cycle ∧ i.cyc .wb = none ∧ i.dur .ex = latency i.op
  rob : ∀ x ∈ s.rob, x.valid = true → x.ready = true →
    AtStage x.ins .rt s.cycle ∧ x.ins.dur .ex = latency x.ins.op ∧ x.ins.dur .wb = 1
  out : ∀ r ∈ s.out, r.Complete

/-- A buffer holds nothing, a full group, or the short last group of the trace with nothing left upstream of it; and all it
holds was fetched in one cycle (rule R237). -/
def Group (s : State) (b upstream : List InsRec) : Prop :=
  (b = [] ∨ b.length = s.cfg.width ∨ (b.length < s.cfg.width ∧ s.traceDone = true ∧ upstream = []))
    ∧ ∀ i ∈ b, ∀ j ∈ b, i.cyc .fe = j.cyc .fe

/-- Group alignment of the four front-end buffers (rule R237). -/
structure GroupAligned (s : State) : Prop where
  de : Group s s.de []
  rn : Group s s.rn s.de
  rr : Group s s.rr (s.rn ++ s.de)
  di : Group s s.di (s.rr ++ s.rn ++ s.de)

/-- The records that wait for execution or execute: those in RR, DI, the valid IQ slots and EXL. -/
def State.unfinished (s : State) : List InsRec :=
  s.rr ++ s.di ++ (s.iq.filter (·.valid)).map (·.ins) ++ s.exl.map (·.ins)

/-- The records on their way from Rename to Writeback: the unfinished ones and those in WB. -/
def State.travelling (s : State) : List InsRec := s.unfinished ++ s.wb

/-- The two records are one instruction: they agree in the fields that Fetch writes and nothing changes (rule R20). -/
structure SameIdentity (i j : InsRec) : Prop where
  pc : i.pc = j.pc
  op : i.op = j.op
  dst : i.dst = j.dst
  src1 : i.src1 = j.src1
  src2 : i.src2 = j.src2
  seq : i.seq = j.seq

/-- The slot `dstTag` names is occupied, not ready, and holds the instruction, and no other occupied slot holds its sequence
number (rules R132, R172). -/
def OwnsSlot (s : State) (i : InsRec) : Prop :=
  ∃ k x, i.dstTag = some k ∧ s.rob[k]? = some x ∧ x.valid = true ∧ x.ready = false ∧ SameIdentity x.ins i ∧
    ∀ j y, s.rob[j]? = some y → y.valid = true → y.ins.seq = i.seq → j = k

/-- The records on their way from Rename to Writeback and the occupied slots that are not ready are the same instructions: each
such record owns the slot `dstTag` names, none stands in two places, each such slot has its record (rules R20, R132, R172). An
occupied slot remembers the destination of its record (rule R30), and a record Rename has not reached has no tag (rules R22,
R40). -/
structure InFlight (s : State) : Prop where
  owns : ∀ i ∈ s.travelling, OwnsSlot s i
  once : (s.travelling.map (·.seq)).Nodup
  present : ∀ k x, s.rob[k]? = some x → x.valid = true → x.ready = false → ∃ i ∈ s.travelling, i.dstTag = some k
  slots : ∀ x ∈ s.rob, x.valid = true → x.dstArf = x.ins.dst
  front : ∀ i ∈ s.rn ++ s.de, i.src1Tag = none ∧ i.src2Tag = none ∧ i.dstTag = none

/-- `j` holds the tag `t` for its source register `r`. -/
def HoldsTag (j : InsRec) (r : ArfIndex) (t : Nat) : Prop :=
  (j.src1 = some r ∧ j.src1Tag = some t) ∨ (j.src2 = some r ∧ j.src2Tag = some t)

/-- Slot `t` holds, or held until it retired, the most recent producer of register `r` that is older than `j`: no unretired and no
retired instruction between the two writes `r` (rules R238, R246). -/
def NamesProducer (s : State) (j : InsRec) (r : ArfIndex) (t : Nat) : Prop :=
  ∃ x, s.rob[t]? = some x ∧ x.dstArf = some r ∧ x.ins.seq < j.seq ∧
    (∀ y ∈ s.rob, y.valid = true → y.dstArf = some r → y.ins.seq < j.seq → y.ins.seq ≤ x.ins.seq) ∧
    ∀ o ∈ s.out, o.dst = some r → o.seq ≤ x.ins.seq

/-- An older record among `l` that writes `r` is the producer in slot `t` that `j` waits for. -/
def WaitsFor (j : InsRec) (r : ArfIndex) (t : Nat) (l : List InsRec) : Prop :=
  ∃ p ∈ l, p.dstTag = some t ∧ p.dst = some r ∧ p.seq < j.seq

/-- `p` is the most recent producer of register `r` that is older than `j` (rules R246, R251). -/
def LatestProducer (s : State) (j p : InsRec) (r : ArfIndex) : Prop :=
  p.dst = some r ∧ p.seq < j.seq ∧
    ∀ y ∈ s.rob, y.valid = true → y.dstArf = some r → y.ins.seq < j.seq → y.ins.seq ≤ p.seq

/-- Wakeup. A tag is held only for a source register, and names the most recent older producer of that register (rule R246); one
held in DI or the IQ names a producer that has not completed execution, so its broadcast is still to come, and one held in RR such
a producer, or one whose `ready` bit is set or is set by the next Writeback (rules R236, R238). An entry of EXL holds no tag (rule
R36). Conversely an instruction holds the tag of the most recent older producer of each of its source registers as long as that
producer has not completed execution (rule R251). -/
structure WakeupSound (s : State) : Prop where
  source : ∀ j ∈ s.unfinished, (j.src1 = none → j.src1Tag = none) ∧ (j.src2 = none → j.src2Tag = none)
  rr : ∀ j ∈ s.rr, ∀ r t, HoldsTag j r t →
    NamesProducer s j r t ∧ (robReady s.rob t = true ∨ WaitsFor j r t s.travelling)
  di : ∀ j ∈ s.di, ∀ r t, HoldsTag j r t → NamesProducer s j r t ∧ WaitsFor j r t s.unfinished
  iq : ∀ x ∈ s.iq, x.valid = true → ∀ r t, HoldsTag x.ins r t → NamesProducer s x.ins r t ∧ WaitsFor x.ins r t s.unfinished
  exl : ∀ e ∈ s.exl, e.ins.src1Tag = none ∧ e.ins.src2Tag = none
  enforced : ∀ j ∈ s.unfinished, ∀ p ∈ s.unfinished, ∀ r, LatestProducer s j p r →
    (j.src1 = some r → j.src1Tag = p.dstTag) ∧ (j.src2 = some r → j.src2Tag = p.dstTag)

/-- The tag that the RMT of `s` gives a register field once the records `l` are renamed into the slots from `tail` on: the slot of the
last record of `l` that writes the register, else what the RMT says (rules R132 to R135). -/
def State.producerTag (s : State) (l : List InsRec) : RegField → Option Nat
  | none => none
  | some r =>
    match (l.zipIdx.filter fun p => decide (p.1.dst = some r)).getLast? with
    | some p => some ((s.tail + p.2) % s.cfg.robSize)
    | none => if s.rmt[r].valid then some s.rmt[r].robTag else none

/-- Nothing is in flight: every buffer, EXL, the IQ and the ROB are empty and no register has a producer (rule R43), while the
trace may go on. -/
structure Drained (s : State) : Prop where
  de : s.de = []
  rn : s.rn = []
  rr : s.rr = []
  di : s.di = []
  wb : s.wb = []
  exl : s.exl = []
  rob : s.robNonEmpty = false
  iq : s.iqNonEmpty = false
  pointers : s.head = s.tail
  rmt : ∀ r : ArfIndex, s.rmt[r].valid = false

/-- The timings of an instruction of operation type `t` fetched in cycle `f` that meets no stall (rule R255). -/
def unstalledTimes (t : OpType) (f : Nat) : Timings where
  fe := { cyc := some f, dur := 1 }
  de := { cyc := some (f + 1), dur := 1 }
  rn := { cyc := some (f + 2), dur := 1 }
  rr := { cyc := some (f + 3), dur := 1 }
  di := { cyc := some (f + 4), dur := 1 }
  is := { cyc := some (f + 5), dur := 1 }
  ex := { cyc := some (f + 6), dur := latency t }
  wb := { cyc := some (f + 6 + latency t), dur := 1 }
  rt := { cyc := some (f + 7 + latency t), dur := 1 }

/-- The tags of every entry that completes when Execute runs on `s`, after the count down (rules R158, R159). -/
def State.completing (s : State) : List ExlEntry :=
  (s.exl.map fun (e : ExlEntry) => e.countDown s.cycle).filter fun e => decide (e.rem = 0)

/-- One source tag after broadcasts of every tag in `ts` (rule R160). -/
def clearTag (ts : List (Option Nat)) (t : Option Nat) : Option Nat := if t ∈ ts then none else t

/-- One instruction after broadcasts of every tag in `ts` (rule R160). -/
def InsRec.wakeAll (i : InsRec) (ts : List (Option Nat)) : InsRec :=
  { i with src1Tag := clearTag ts i.src1Tag, src2Tag := clearTag ts i.src2Tag }

/-- One IQ slot after broadcasts of every tag in `ts` (rule R160). -/
def IqSlot.wakeAll (x : IqSlot) (ts : List (Option Nat)) : IqSlot :=
  if x.valid then { x with ins := x.ins.wakeAll ts } else x

/-- A record without the two fields that no rule reads: `pc` (rule R24) and `wbDone` (rule R22). -/
def InsRec.eraseInert (i : InsRec) : InsRec := { i with pc := 0, wbDone := false }

/-- A state with the two inert fields of every record erased. -/
def State.eraseInert (s : State) : State :=
  { s with
    de := s.de.map fun i => i.eraseInert
    rn := s.rn.map fun i => i.eraseInert
    rr := s.rr.map fun i => i.eraseInert
    di := s.di.map fun i => i.eraseInert
    wb := s.wb.map fun i => i.eraseInert
    exl := s.exl.map fun e => { e with ins := e.ins.eraseInert }
    rob := s.rob.map fun x => { x with ins := x.ins.eraseInert }
    iq := s.iq.map fun x => { x with ins := x.ins.eraseInert } }

end Sys2Proof.Machine
end

