-- ==== Sys2Proof/Certificates/Slice0/Obligations.lean ====
section
/-!
DEFINITION. The statements for the provers. Each docstring names the rule or the section of spec/ it formalises; a clause that
rests on a choice of the model names its log entry (notes/assumptions/).
-/

open Sys2Proof Sys2Proof.Machine

/-! ## Encoding -/

/-- The lines of vector V15 and of rule R86 decode to the instructions they stand for (rules R80, R82, R83). -/
def Obligations.WrittenLinesDecode : Prop :=
  decodeLine [48, 32, 48, 32, 49, 32, 50, 32, 51] = .instr (.op0 0 (some 1) (some 2) (some 3)) ∧
  decodeLine [48, 32, 49, 32, 49, 32, 50, 32, 51] = .instr (.op1 0 (some 1) (some 2) (some 3)) ∧
  decodeLine [49, 99, 32, 50, 32, 45, 49, 32, 54, 54, 32, 48] = .instr (.op2 28 none (some 66) (some 0)) ∧
  decodeLine [52, 32, 48, 32, 50, 32, 45, 49] = .endOfStream ∧
  decodeLine [52, 32, 51, 32, 49, 32, 45, 49, 32, 45, 49] = .outOfDomain

/-- Decoding the line of an instruction gives the instruction back, whatever its class, its 64-bit `pc` and its three register
fields (rules R80 to R83, R86). -/
def Obligations.DecodeEncodeRoundTrip : Prop := ∀ i : Instr, decodeLine (encode i) = .instr i

/-- The same through the host's numbering of an instruction's bits: the line as one number (log 1). -/
def Obligations.TableWordRoundTrip : Prop :=
  ∀ i : Instr, decodeTableWord (8 * (encode i).length) (lineWord (encode i)) = some i

/-- A line that decodes to an instruction has exactly five fields, and they parse to the numbers of the instruction: no bit of
an operand is dropped or made up (rules R80 to R83). -/
def Obligations.DecodedLineHasItsFields : Prop :=
  ∀ (line : TraceLine) (i : Instr), decodeLine line = .instr i →
    ∃ f1 f2 f3 f4 f5, splitFields line [] = [f1, f2, f3, f4, f5] ∧ parseFive f1 f2 f3 f4 f5 = some i.toRaw

/-- Five fields that parse are refused exactly where a value lies outside its domain; inside the domains they are the instruction
with those fields (rule R85, decision D13; log 10). -/
def Obligations.OutOfDomainIsRefused : Prop :=
  ∀ (line : TraceLine) (f1 f2 f3 f4 f5 : List Byte) (r : RawRecord),
    splitFields line [] = [f1, f2, f3, f4, f5] → parseFive f1 f2 f3 f4 f5 = some r →
      (r.wellFormed = false → decodeLine line = .outOfDomain) ∧
      (r.wellFormed = true → ∃ i : Instr, decodeLine line = .instr i ∧ i.toRaw = r)

/-- A line with fewer than five parsed fields ends the stream exactly as the end of the file does: Fetch goes to the same state,
whatever comes after the line, with the latch set and no record created (spec file 30, section 4). Which fields parse is log 9
(PRESUMED), and that the two states are equal rests on log 7 (the lines left are dropped, DESIGN CHOICE). -/
def Obligations.ShortLineEndsStream : Prop :=
  ∀ (line : TraceLine) (rest : List TraceLine) (s : State),
    ((splitFields line []).length < 5 ∨
      ∃ f1 f2 f3 f4 f5 more, splitFields line [] = f1 :: f2 :: f3 :: f4 :: f5 :: more ∧ parseFive f1 f2 f3 f4 f5 = none) →
    s.cfg.wellFormed = true → s.traceDone = false → s.room s.de = true →
      fetch { s with trace := line :: rest } = fetch { s with trace := [] } ∧
      ∃ t, fetch { s with trace := line :: rest } = .next t ∧ t.traceDone = true ∧ t.de = s.de ∧ t.seqNext = s.seqNext

/-! ## The meanings of the instructions, and the step that runs them -/

/-- Where Fetch may take a record, each class completes its entry: the record with the delivered fields, the next sequence number
and the stamp of Fetch goes to the end of DE, the sequence counter advances, and nothing else changes (rules R87, R100 to R103,
R121). -/
def Obligations.EachClassEntersDecodeBuffer : Prop :=
  ∀ (pc : Pc) (d a b : RegField) (s : State), s.traceDone = false → s.de.length < s.cfg.width →
    exec (.op0 pc d a b) s = .next { s with
      de := s.de ++ [InsRec.create .t0 pc d a b s.seqNext s.cycle], seqNext := s.seqNext + 1 } ∧
    exec (.op1 pc d a b) s = .next { s with
      de := s.de ++ [InsRec.create .t1 pc d a b s.seqNext s.cycle], seqNext := s.seqNext + 1 } ∧
    exec (.op2 pc d a b) s = .next { s with
      de := s.de ++ [InsRec.create .t2 pc d a b s.seqNext s.cycle], seqNext := s.seqNext + 1 }

/-- Where the end of stream is latched or DE has no room, no class has an effect: "Fetch does nothing" (spec file 42, section 1). -/
def Obligations.EachClassWaitsAtFullBuffer : Prop :=
  ∀ (pc : Pc) (d a b : RegField) (s : State), (s.traceDone = true ∨ s.cfg.width ≤ s.de.length) →
    exec (.op0 pc d a b) s = .next s ∧ exec (.op1 pc d a b) s = .next s ∧ exec (.op2 pc d a b) s = .next s

/-- The frame of the three classes: only DE and the sequence counter can change, and DE only grows at its end (rule R121). -/
def Obligations.EachClassFrame : Prop :=
  ∀ (i : Instr) (s t : State), exec i s = .next t →
    t = { s with de := t.de, seqNext := t.seqNext } ∧ s.de <+: t.de

/-- A step runs the decoded instruction: where the line at the trace port decodes to `i` and DE has room when Fetch runs, the step
is the eight other stage operations, then `exec i` on the state with the line consumed, then the rest of Fetch's loop, then
`cycle + 1` (rules R110, R111, R121). -/
def Obligations.StepRunsDecodedInstruction : Prop :=
  ∀ (s : State) (line : TraceLine) (rest : List TraceLine) (i : Instr),
    s.cfg.wellFormed = true → s.traceDone = false → s.trace = line :: rest → decodeLine line = .instr i →
    s.stages.de.length < s.cfg.width →
      step s = andThen (andThen (exec i { s.stages with trace := rest }) (fetchLoop (s.cfg.width - 1)))
        (fun t => .next t.advance)

/-- With one instruction's line placed at the trace port, the very next step runs exactly that instruction: one record is fetched,
and it is the instruction's (rule R121; log 3, log 16). -/
def Obligations.PlacedLineRunsNext : Prop :=
  ∀ (s : State) (i : Instr), s.cfg.wellFormed = true →
    ∃ t, step (s.withLine (encode i)) = .next t ∧ t.seqNext = s.seqNext + 1 ∧
      t.de.getLast? = some (InsRec.create i.op i.pc i.dst i.src1 i.src2 s.seqNext s.cycle)

/-! ## The driver, the counters and the ports -/

/-- `cycle` goes up by one in every tick, as the last action of the tick, after the nine stage operations, and no stage operation and no
instruction writes it (rule R111). -/
def Obligations.CycleAdvancesOncePerTick : Prop :=
  (∀ s : State, s.cfg.wellFormed = true → s.continues = true →
    step s = andThen (fetch s.stages) (fun t => .next { t with cycle := t.cycle + 1 })) ∧
  (∀ s t, step s = .next t → s.continues = true → t.cycle = s.cycle + 1) ∧
  (∀ s : State, s.retire.cycle = s.cycle ∧ s.writeback.cycle = s.cycle ∧ s.execute.cycle = s.cycle ∧ s.issue.cycle = s.cycle ∧
    s.dispatch.cycle = s.cycle ∧ s.regRead.cycle = s.cycle ∧ s.rename.cycle = s.cycle ∧ s.decode.cycle = s.cycle) ∧
  (∀ s t, fetch s = .next t → t.cycle = s.cycle)

/-- The end of stream is latched once observed: false at reset, set by Fetch when the port answers `end`, never cleared by a step,
and Fetch does nothing once it is set; the driver goes on while it is not (rule R28). -/
def Obligations.EndOfStreamLatch : Prop :=
  State.reset.traceDone = false ∧
  (∀ s t, s.traceDone = false → fetch s = .next t → (t.traceDone = true ↔
    ∃ k, k < s.cfg.width ∧ s.de.length + k < s.cfg.width ∧ traceAnswer (s.trace.drop k) = .endOfStream)) ∧
  (∀ s t, step s = .next t → s.traceDone = true → t.traceDone = true) ∧
  (∀ s, s.traceDone = true → fetch s = .next s) ∧
  (∀ s : State, s.traceDone = false → s.continues = true)

/-- No step changes the configuration registers (spec file 10, section 5). -/
def Obligations.ConfigurationIsConstant : Prop := ∀ s t, step s = .next t → t.cfg = s.cfg

/-- OUT is append-only, at most `WIDTH` records a step, Retire alone emits to it, and the engine never reads it: with any other content of OUT the step is the
same but for that content (rule R39; the bound: spec file 00, section 6). -/
def Obligations.OutputIsNeverRead : Prop :=
  ∀ s t, step s = .next t → (s.continues = true → t.out = s.retire.out) ∧ ∃ l, l.length ≤ s.cfg.width ∧ t.out = s.out ++ l ∧
    ∀ o : List TimingRecord, step { s with out := o } = .next { t with out := o ++ l }

/-- A configuration with positive parameters and a trace of in-domain records never stops with a fault or a refusal, and what is left
of the trace is in domain again (spec file 60, section 1; spec file 70, section 2). -/
def Obligations.InDomainStepSucceeds : Prop :=
  ∀ s : State, s.cfg.wellFormed = true → (∀ line ∈ s.trace, lineInDomain line = true) →
    ∃ t, step s = .next t ∧ ∀ line ∈ t.trace, lineInDomain line = true

/-- What a step is refused for, and that it is: a zero parameter (spec file 70, section 2; log 13), or a line that the port refuses
when Fetch meets it, the k-th of the tick, with every line before it a record and room left in DE (spec file 30, section 4; an
out-of-domain record log 10, a line with surplus fields log 8). Nothing else is refused. -/
def Obligations.RefusalsHaveTheirReason : Prop :=
  (∀ s : State, s.cfg.wellFormed = false → step s = .refused .zeroParameter) ∧
  (∀ (s : State) (k : Nat) (line : TraceLine), s.cfg.wellFormed = true → s.traceDone = false → s.stages.de.length + k < s.cfg.width →
    (∀ j, j < k → ∃ l i, s.trace[j]? = some l ∧ decodeLine l = .instr i) → s.trace[k]? = some line →
      (decodeLine line = .outOfDomain → step s = .refused .outOfDomainRecord) ∧
      (decodeLine line = .surplusFields → step s = .refused .surplusFields)) ∧
  (∀ (s : State) (r : Refusal), step s = .refused r →
    (r = .zeroParameter ∧ s.cfg.wellFormed = false) ∨
    ∃ k line, s.traceDone = false ∧ s.stages.de.length + k < s.cfg.width ∧
      (∀ j, j < k → ∃ l i, s.trace[j]? = some l ∧ decodeLine l = .instr i) ∧ s.trace[k]? = some line ∧
      ((r = .outOfDomainRecord ∧ decodeLine line = .outOfDomain) ∨ (r = .surplusFields ∧ decodeLine line = .surplusFields)))

/-- The driver has stopped: a step changes nothing (spec file 41, section 1: no further tick is executed; that the model then answers
the same state is its choice, log 6). -/
def Obligations.StoppedEngineStays : Prop :=
  ∀ s : State, s.cfg.wellFormed = true → s.done = true → step s = .next s

/-- An empty trace gives one tick with any configuration: CYCLES = 1, COUNT = 0, OUT empty (spec file 41, section 1). -/
def Obligations.EmptyTraceTakesOneTick : Prop :=
  ∀ cfg : Config, cfg.wellFormed = true →
    ∃ t, step (State.start cfg []) = .next t ∧ t.done = true ∧ t.observe = { out := [], count := 0, cycles := 1 }

/-! ## Fetch and Decode -/

/-- What Fetch does with the trace: it takes records from the front, at most `WIDTH` and no more than DE has room for, numbers them in
order, stamps them with the current cycle, and stops at the end of the stream, or with DE full, or after `WIDTH` records (spec file
42, section 1). That the lines left are dropped at the end of the stream is the model's choice (log 7). -/
def Obligations.FetchTakesAGroup : Prop :=
  ∀ s t, s.traceDone = false → fetch s = .next t →
    ∃ (l : List Instr) (lines rest : List TraceLine),
      s.trace = lines ++ rest ∧ lines.map decodeLine = l.map .instr ∧
      l.length ≤ s.cfg.width ∧ l.length ≤ s.cfg.width - s.de.length ∧
      t = { s with
        de := s.de ++ l.zipIdx.map fun p => InsRec.create p.1.op p.1.pc p.1.dst p.1.src1 p.1.src2 (s.seqNext + p.2) s.cycle
        seqNext := s.seqNext + l.length
        traceDone := t.traceDone
        trace := t.trace } ∧
      ((t.traceDone = true ∧ t.trace = [] ∧ traceAnswer rest = .endOfStream) ∨
        (t.traceDone = false ∧ t.trace = rest ∧ (l.length = s.cfg.width ∨ s.cfg.width ≤ t.de.length)))

/-- Decode stamps every record of DE whether or not anything can move (rule R125), and as many records as RN has room for move, oldest
first, with their duration; nothing else changes. -/
def Obligations.DecodeStampsAndMoves : Prop :=
  ∀ s : State, s.decode = { s with
    de := (s.de.map fun i => i.stamp .de s.cycle).drop (s.cfg.width - s.rn.length)
    rn := s.rn ++ ((s.de.map fun i => i.stamp .de s.cycle).take (s.cfg.width - s.rn.length)).map fun i => i.leave .de s.cycle }

/-! ## Rename, Register-Read, Dispatch -/

/-- Rename of one record: the slot at `tail` is allocated, the source tags are the RMT's before the destination is mapped, the RMT
names the slot for the destination and is unchanged elsewhere, the record goes to RR with its own slot as `dstTag`, `tail` advances;
nothing else changes (spec file 43, section 1). That the slot keeps the copy taken before the tags and the duration are written is
the model's choice among the two that rule R42 allows (log 11). -/
def Obligations.RenameOneRecord : Prop :=
  ∀ (s : State) (i : InsRec), i.src1Tag = none → i.src2Tag = none → s.tail < s.rob.length →
    ∃ j, s.renameOne i = { s with
        rob := (s.renameOne i).rob, rmt := (s.renameOne i).rmt, rr := s.rr ++ [j], tail := (s.tail + 1) % s.cfg.robSize } ∧
      j = { i.leave .rn s.cycle with src1Tag := j.src1Tag, src2Tag := j.src2Tag, dstTag := some s.tail } ∧
      (∀ t, j.src1Tag = some t ↔ ∃ r, i.src1 = some r ∧ s.rmt[r].valid = true ∧ s.rmt[r].robTag = t) ∧
      (∀ t, j.src2Tag = some t ↔ ∃ r, i.src2 = some r ∧ s.rmt[r].valid = true ∧ s.rmt[r].robTag = t) ∧
      (∀ k, (s.renameOne i).rob[k]? =
        if k = s.tail then some { valid := true, ready := false, ins := i, dstArf := i.dst } else s.rob[k]?) ∧
      (∀ r : ArfIndex, (s.renameOne i).rmt[r] =
        if i.dst = some r then { valid := true, robTag := s.tail } else s.rmt[r])

/-- The destination mapping: `dst` names the slot at `tail`, whatever the entry held; other entries, the other ROB slots and the tags
of renamed records are as before; and a retirement of another slot leaves the new mapping alone (rule R134). -/
def Obligations.DestinationMapping : Prop :=
  ∀ (s : State) (i : InsRec) (r : ArfIndex), i.dst = some r →
    (s.renameOne i).rmt[r] = { valid := true, robTag := s.tail } ∧
    (∀ q : ArfIndex, q ≠ r → (s.renameOne i).rmt[q] = s.rmt[q]) ∧
    (∀ k, k ≠ s.tail → (s.renameOne i).rob[k]? = s.rob[k]?) ∧
    s.rr <+: (s.renameOne i).rr ∧ (s.renameOne i).di = s.di ∧ (s.renameOne i).iq = s.iq ∧
    (∀ x : RobSlot, s.head ≠ s.tail → ((s.renameOne i).retireOne x).rmt[r] = { valid := true, robTag := s.tail })

/-- While fewer than `WIDTH` ROB slots are free Rename only stamps (spec file 43, section 1; tested once, decision D7). -/
def Obligations.RenameStallsOnFullRob : Prop :=
  ∀ s : State, s.robFree < s.cfg.width → s.rename = { s with rn := s.rn.map fun i => i.stamp .rn s.cycle }

/-- With `WIDTH` free slots Rename moves as many records as RR has room for, oldest first, without testing the ROB again; each is
renamed from the state its predecessors left. They get consecutive slots from `tail` on, in order, each of which holds its record
(the copy of log 11), and every other slot is as before (spec file 43, section 1; decision D7). -/
def Obligations.RenameMovesAGroup : Prop :=
  ∀ s : State, s.cfg.width ≤ s.robFree → s.tail < s.cfg.robSize →
    s.rename = { ((s.rn.map fun i => i.stamp .rn s.cycle).take (s.cfg.width - s.rr.length)).foldl State.renameOne s with
      rn := (s.rn.map fun i => i.stamp .rn s.cycle).drop (s.cfg.width - s.rr.length) } ∧
    s.rename.rr.length = s.rr.length + min s.rn.length (s.cfg.width - s.rr.length) ∧
    s.rename.tail = (s.tail + min s.rn.length (s.cfg.width - s.rr.length)) % s.cfg.robSize ∧
    s.rr <+: s.rename.rr ∧
    (∀ (k : Nat) (i : InsRec), k < s.cfg.width - s.rr.length → s.rn[k]? = some i →
      (s.rob.length = s.cfg.robSize → s.rename.rob[(s.tail + k) % s.cfg.robSize]? =
        some { valid := true, ready := false, ins := i.stamp .rn s.cycle, dstArf := i.dst }) ∧
      ∃ j : InsRec, s.rename.rr[s.rr.length + k]? = some j ∧ j.dstTag = some ((s.tail + k) % s.cfg.robSize) ∧
        SameIdentity j i ∧ j.times = ((i.stamp .rn s.cycle).leave .rn s.cycle).times) ∧
    (∀ n : Nat, (∀ k, k < min s.rn.length (s.cfg.width - s.rr.length) → n ≠ (s.tail + k) % s.cfg.robSize) →
      s.rename.rob[n]? = s.rob[n]?)

/-- Dependence within a group: the source tags of the k-th record Rename moves are the slots of the last of its k predecessors of the
same tick that write the registers, where there are such, else what the RMT said before; and so is the RMT afterwards (spec file
43, section 1, corner cases (a) and (b)). A record in RN has no tag yet, which `InFlight` says. -/
def Obligations.RenameSeesItsOwnGroup : Prop :=
  ∀ s : State, s.cfg.width ≤ s.robFree → s.tail < s.cfg.robSize →
    (∀ (k : Nat) (i : InsRec), k < s.cfg.width - s.rr.length → s.rn[k]? = some i → i.src1Tag = none → i.src2Tag = none →
      ∃ j : InsRec, s.rename.rr[s.rr.length + k]? = some j ∧
        j.src1Tag = s.producerTag (s.rn.take k) i.src1 ∧ j.src2Tag = s.producerTag (s.rn.take k) i.src2) ∧
    (∀ r : ArfIndex, (if s.rename.rmt[r].valid then some s.rename.rmt[r].robTag else none) =
      s.producerTag (s.rn.take (s.cfg.width - s.rr.length)) (some r))

/-- Register-Read stamps every record of RR (rule R138), and as many as DI has room for move, oldest first, each snapped as it moves;
the others are not snapped; nothing else changes. -/
def Obligations.RegisterReadStampsAndMoves : Prop :=
  ∀ s : State, s.regRead = { s with
    rr := (s.rr.map fun i => i.stamp .rr s.cycle).drop (s.cfg.width - s.di.length)
    di := s.di ++ ((s.rr.map fun i => i.stamp .rr s.cycle).take (s.cfg.width - s.di.length)).map fun i =>
      (i.snap s.rob).leave .rr s.cycle }

/-- The ready-snap clears a tag exactly where the slot it names is `ready`, occupied or not (spec file 43, section 2; `valid` is not
tested, decision D9). -/
def Obligations.SnapTestsReadyOnly : Prop :=
  ∀ (i : InsRec) (rob : List RobSlot) (k : Nat) (x : RobSlot), rob[k]? = some x →
    (i.src1Tag = some k → (i.snap rob).src1Tag = if x.ready then none else some k) ∧
    (i.src2Tag = some k → (i.snap rob).src2Tag = if x.ready then none else some k) ∧
    (i.src1Tag = none → (i.snap rob).src1Tag = none) ∧ (i.src2Tag = none → (i.snap rob).src2Tag = none)

/-- The slot Dispatch fills is the empty one of least index, and there is none only where every slot is occupied (spec file 43,
section 3; decision D8). -/
def Obligations.FreeSlotIsLeast : Prop :=
  ∀ q : List IqSlot,
    (∀ k, freeSlot q = some k ↔
      (∃ x : IqSlot, q[k]? = some x ∧ x.valid = false) ∧ ∀ j, j < k → ∀ y : IqSlot, q[j]? = some y → y.valid = true) ∧
    (freeSlot q = none ↔ ∀ x ∈ q, x.valid = true)

/-- Dispatch stamps every record of DI first (rule R142). With `WIDTH` free IQ slots the whole of DI moves, in order, each record to the
least slot that is empty when its turn comes (decision D8), and every other slot is as before; with fewer nothing moves. -/
def Obligations.DispatchAllOrNothing : Prop :=
  ∀ s : State, s.di.length ≤ s.cfg.width →
    (s.iqFree < s.cfg.width → s.dispatch = { s with di := s.di.map fun i => i.stamp .di s.cycle }) ∧
    (s.cfg.width ≤ s.iqFree →
      s.dispatch = { s with di := [], iq := s.dispatch.iq } ∧
      s.dispatch.iq.length = s.iq.length ∧
      s.dispatch.iqFree + s.di.length = s.iqFree ∧
      (∀ (k : Nat) (x : IqSlot), s.iq[k]? = some x → x.valid = true → s.dispatch.iq[k]? = some x) ∧
      (∃ slots : List Nat, slots.length = s.di.length ∧ slots.Pairwise (· < ·) ∧
        (∀ k, k ∉ slots → s.dispatch.iq[k]? = s.iq[k]?) ∧
        ∀ (m k : Nat) (i : InsRec), s.di[m]? = some i → slots[m]? = some k →
          (∃ x : IqSlot, s.iq[k]? = some x ∧ x.valid = false) ∧
          (∀ (j : Nat) (y : IqSlot), j < k → s.iq[j]? = some y → y.valid = false → j ∈ slots.take m) ∧
          s.dispatch.iq[k]? = some { valid := true, ins := ((i.stamp .di s.cycle).snap s.rob).leave .di s.cycle }))

/-! ## Issue and Execute -/

/-- Issue's choice: the ready entry with the least pair (fetch cycle, index), and none only where no entry is ready (spec file 44,
section 1). -/
def Obligations.OldestReadyIsSelected : Prop :=
  ∀ q : List IqSlot,
    (∀ a k, oldestReady q = some (a, k) ↔
      ∃ x : IqSlot, q[k]? = some x ∧ x.selectable = true ∧ x.ins.age = a ∧
        ∀ (j : Nat) (y : IqSlot), q[j]? = some y → y.selectable = true → a < y.ins.age ∨ (a = y.ins.age ∧ k ≤ j)) ∧
    (oldestReady q = none ↔ ∀ x ∈ q, x.selectable = false)

/-- Issue with the cap guard open stamps every valid IQ entry (rule R151). What it issues, at most `WIDTH` entries, comes from distinct
valid slots whose source tags are both none (rule R36, Q1), each time the slot with the least pair (fetch cycle, index) among the
ready slots not yet taken, and enters EXL in that order with the latency of its class, 1, 2 or 5. It stops short of `WIDTH` only where
no ready entry is left. The slots it takes are freed, every other slot keeps its valid bit, and nothing but EXL and the IQ changes. -/
def Obligations.IssueSelectsReadyEntries : Prop :=
  ∀ s : State, s.exl.length < 5 * s.cfg.width →
    ∃ (slots : List Nat) (l : List ExlEntry), s.issue = { s with exl := s.exl ++ l, iq := s.issue.iq } ∧
      slots.Nodup ∧ l.length = slots.length ∧ l.length ≤ s.cfg.width ∧
      (∀ m k, slots[m]? = some k → ∃ x : IqSlot, s.iq[k]? = some x ∧
        x.valid = true ∧ x.ins.src1Tag = none ∧ x.ins.src2Tag = none ∧
        l[m]? = some {
          ins := (x.ins.stamp .is s.cycle).leave .is s.cycle
          rem := match x.ins.op with | .t0 => 1 | .t1 => 2 | .t2 => 5 } ∧
        ∀ (j : Nat) (y : IqSlot), s.iq[j]? = some y → y.selectable = true → j ∉ slots.take m →
          x.ins.age < y.ins.age ∨ (x.ins.age = y.ins.age ∧ k ≤ j)) ∧
      s.issue.iq.length = s.iq.length ∧
      (∀ (k : Nat) (x : IqSlot), s.iq[k]? = some x → s.issue.iq[k]? = some {
        valid := x.valid && decide (k ∉ slots)
        ins := if x.valid then x.ins.stamp .is s.cycle else x.ins }) ∧
      (l.length < s.cfg.width → ∀ (k : Nat) (x : IqSlot), s.iq[k]? = some x → x.selectable = true → k ∈ slots)

/-- The cap guard: with `5 * WIDTH` entries in EXL Issue does nothing, not even stamp (spec file 44, section 1; decision D12). -/
def Obligations.IssueGuardPrecedesStamp : Prop :=
  ∀ s : State, 5 * s.cfg.width ≤ s.exl.length → s.issue = s

/-- The broadcast clears each source tag equal to `t` in the valid IQ slots, in DI and in RR, and touches nothing else: not RN, DE,
EXL, WB or the ROB, and not the content of a free IQ slot (rule R160). -/
def Obligations.BroadcastScansThreeStructures : Prop :=
  ∀ (s : State) (t : Nat),
    s.broadcast (some t) = { s with iq := (s.broadcast (some t)).iq, di := (s.broadcast (some t)).di, rr := (s.broadcast (some t)).rr } ∧
    (s.broadcast (some t)).di = s.di.map (fun j => { j with
      src1Tag := if j.src1Tag = some t then none else j.src1Tag
      src2Tag := if j.src2Tag = some t then none else j.src2Tag }) ∧
    (s.broadcast (some t)).rr = s.rr.map (fun j => { j with
      src1Tag := if j.src1Tag = some t then none else j.src1Tag
      src2Tag := if j.src2Tag = some t then none else j.src2Tag }) ∧
    (s.broadcast (some t)).iq = s.iq.map (fun x => if x.valid then { x with ins := { x.ins with
      src1Tag := if x.ins.src1Tag = some t then none else x.ins.src1Tag
      src2Tag := if x.ins.src2Tag = some t then none else x.ins.src2Tag } } else x)

/-- Execute where WB has room for every completion: every entry is stamped (rule R157) and counted down, the entries at zero are
broadcast, finished and moved to WB in list order, the others stay in order; nothing else changes (spec file 44, section 2). -/
def Obligations.ExecuteCompletesExactly : Prop :=
  ∀ s : State, s.wb.length + s.completing.length ≤ 5 * s.cfg.width →
    s.execute = { s with
      exl := (s.exl.map fun e => { ins := e.ins.stamp .ex s.cycle, rem := e.rem - 1 }).filter fun e => decide (e.rem ≠ 0)
      wb := s.wb ++ s.completing.map fun e => e.finish s.cycle
      iq := s.iq.map fun x => x.wakeAll (s.completing.map fun e => e.ins.dstTag)
      di := s.di.map fun i => i.wakeAll (s.completing.map fun e => e.ins.dstTag)
      rr := s.rr.map fun i => i.wakeAll (s.completing.map fun e => e.ins.dstTag) }

/-- Completed work is never lost: Execute moves entries from EXL to WB or keeps them, as a multiset of sequence numbers, and WB never
exceeds its capacity (spec file 44, section 2; the deferral of decision D11). -/
def Obligations.ExecuteLosesNothing : Prop :=
  ∀ s : State,
    ((s.execute.exl.map fun e => e.ins.seq) ++ s.execute.wb.map fun i => i.seq).Perm
      ((s.exl.map fun e => e.ins.seq) ++ s.wb.map fun i => i.seq) ∧
    s.wb <+: s.execute.wb ∧ s.execute.wb.length ≤ max s.wb.length (5 * s.cfg.width)

/-- Same-tick wakeup: an IQ entry whose every held tag is that of an entry of EXL in its last cycle is ready as soon as Execute has run,
so Issue of the same tick sees it ready, with its age unchanged (spec file 44, section 3; decision D17). -/
def Obligations.WakeupIsSeenInTheSameTick : Prop :=
  ∀ (s : State) (k : Nat) (x : IqSlot), s.iq[k]? = some x → x.valid = true →
    (∀ t, (x.ins.src1Tag = some t ∨ x.ins.src2Tag = some t) → ∃ e ∈ s.exl, e.rem = 1 ∧ e.ins.dstTag = some t) →
      ∃ y : IqSlot, s.execute.iq[k]? = some y ∧ y.selectable = true ∧ y.ins.age = x.ins.age ∧ y.ins.seq = x.ins.seq

/-! ## Writeback and Retire -/

/-- Writeback drains the whole of WB: each record, stamped and with its duration, is copied into the occupied slot with its sequence
number, which becomes `ready`; every other slot is unchanged, and nothing but the ROB and WB changes (spec file 45, section 1). Where the
records in flight own their slots, the invariant `InFlight`, each record of WB has its slot, and it is the one `dstTag` names. -/
def Obligations.WritebackDrainsBuffer : Prop :=
  ∀ s : State, (s.wb.map fun i => i.seq).Nodup →
    (∀ (j k : Nat) (x y : RobSlot), s.rob[j]? = some x → s.rob[k]? = some y → x.valid = true → y.valid = true → x.ins.seq = y.ins.seq → j = k) →
      s.writeback = { s with rob := s.writeback.rob, wb := [] } ∧
      (∀ i ∈ s.wb, ∀ (k : Nat) (x : RobSlot), s.rob[k]? = some x → x.valid = true → x.ins.seq = i.seq →
        s.writeback.rob[k]? = some { x with ready := true, ins := (i.stamp .wb s.cycle).leave .wb s.cycle }) ∧
      (∀ (k : Nat) (x : RobSlot), s.rob[k]? = some x → (∀ i ∈ s.wb, x.valid = true → x.ins.seq ≠ i.seq) → s.writeback.rob[k]? = some x) ∧
      (InFlight s → ∀ i ∈ s.wb, ∃ k x, i.dstTag = some k ∧ s.rob[k]? = some x ∧
        s.writeback.rob[k]? = some { x with ready := true, ins := (i.stamp .wb s.cycle).leave .wb s.cycle })

/-- Retire stamps every valid ready slot, not only the head, and leaves every `ready` bit, destination and other slot as it is; it
writes only the ROB, `head`, the RMT and OUT (spec file 45, section 2; `ready` is kept, decision D9). -/
def Obligations.RetireStampsReadySlots : Prop :=
  ∀ s : State,
    s.retire = { s with rob := s.retire.rob, head := s.retire.head, rmt := s.retire.rmt, out := s.retire.out } ∧
    s.retire.rob.length = s.rob.length ∧
    ∀ (k : Nat) (x : RobSlot), s.rob[k]? = some x → ∃ y : RobSlot, s.retire.rob[k]? = some y ∧ y.ready = x.ready ∧ y.dstArf = x.dstArf ∧
      ((x.valid && x.ready) = true → y.ins = x.ins.stamp .rt s.cycle) ∧ ((x.valid && x.ready) = false → y = x)

/-- Retire takes valid ready slots from `head` on, in order, at most `WIDTH`, and stops short only at a head that is not valid and
ready: the records are emitted in that order with their durations, the slots are freed, `head` is the place after them (spec file 45,
section 2). -/
def Obligations.RetireIsInOrder : Prop :=
  ∀ s : State, s.rob.length = s.cfg.robSize → s.head < s.cfg.robSize →
    ∃ n, n ≤ s.cfg.width ∧ n ≤ s.cfg.robSize ∧
      (∀ k, k < n → ∃ x y : RobSlot, s.rob[s.robIndex k]? = some x ∧ x.valid = true ∧ x.ready = true ∧
        s.retire.rob[s.robIndex k]? = some y ∧ y.valid = false) ∧
      (∀ k, n ≤ k → k < s.cfg.robSize →
        (s.retire.rob[s.robIndex k]?).map (·.valid) = (s.rob[s.robIndex k]?).map (·.valid)) ∧
      s.retire.out = s.out ++ (s.robSlots n).map (fun x => ((x.ins.stamp .rt s.cycle).leave .rt s.cycle).timing) ∧
      s.retire.head = s.robIndex n ∧
      (n < s.cfg.width → ∀ y : RobSlot, s.retire.rob[s.retire.head]? = some y → (y.valid && y.ready) = false)

/-- The conditional clear: when the slot at `head` retires, the RMT entry of its destination is cleared if it still names that slot,
and left alone otherwise; every other entry is left alone, and `robTag` keeps its value (rule R177). -/
def Obligations.RetireClearsOwnMappingOnly : Prop :=
  ∀ (s : State) (x : RobSlot) (r : ArfIndex),
    (s.retireOne x).rmt[r] =
      if x.dstArf = some r ∧ s.rmt[r].valid = true ∧ s.rmt[r].robTag = s.head then { s.rmt[r] with valid := false } else s.rmt[r]

/-! ## Invariants that every step keeps -/

/-- Array sizes, pointer ranges and buffer capacities hold at the start of any run. -/
def Obligations.SizesHoldAtStart : Prop :=
  ∀ (cfg : Config) (trace : List TraceLine), cfg.wellFormed = true → Sized (State.start cfg trace)

/-- Every step keeps the array sizes, the pointer ranges and the buffer capacities (spec file 10, section 7). -/
def Obligations.SizesAreKept : Prop := ∀ s t, Sized s → step s = .next t → Sized t

/-- The ROB is contiguous and the machine holds the instructions in program order at the start of any run, and so are the RMT, the
timing, the group, the slot and the wakeup invariants met there. -/
def Obligations.InvariantsHoldAtStart : Prop :=
  ∀ (cfg : Config) (trace : List TraceLine), cfg.wellFormed = true →
    ProgramOrder (State.start cfg trace) ∧ RmtSound (State.start cfg trace) ∧ Timed (State.start cfg trace) ∧
      GroupAligned (State.start cfg trace) ∧ InFlight (State.start cfg trace) ∧ WakeupSound (State.start cfg trace)

/-- Every step keeps the ROB contiguous from `head` toward `tail` and the instructions in program order: those emitted, those in the
ROB, those in RN and those in DE carry the sequence numbers 0, 1, 2, … without gap or repetition (spec file 10, section 7; spec file
70, section 5). -/
def Obligations.ProgramOrderIsKept : Prop := ∀ s t, Sized s → ProgramOrder s → step s = .next t → ProgramOrder t

/-- Every step keeps the RMT sound: a valid entry names the youngest occupied slot whose destination is that register, and a register
with an occupied slot has a valid entry (spec file 10, section 7; spec file 70, section 5). -/
def Obligations.RmtSoundnessIsKept : Prop :=
  ∀ s t, Sized s → ProgramOrder s → RmtSound s → step s = .next t → RmtSound t

/-- Every step keeps the records in flight and the occupied slots that are not ready the same instructions: each record in RR, DI, the
IQ, EXL and WB has exactly one occupied slot with its sequence number, and it is the slot `dstTag` names (spec file 45, section
1). -/
def Obligations.InFlightIsKept : Prop :=
  ∀ s t, Sized s → ProgramOrder s → InFlight s → step s = .next t → InFlight t

/-- Every step keeps every instruction on time: the stamps and durations of each record in flight are linked without a gap up to the
stage it is in, the count downs of EXL agree with the clock, and every emitted record is complete (spec file 70, sections 4 and
5). -/
def Obligations.TimingIsKept : Prop := ∀ s t, Timed s → step s = .next t → Timed t

/-- Every step keeps the four front-end buffers aligned to fetch groups (spec file 70, section 4). -/
def Obligations.GroupAlignmentIsKept : Prop := ∀ s t, GroupAligned s → step s = .next t → GroupAligned t

/-- Every step keeps the wakeup logic sound: a held tag names the most recent older producer of its register, whose wakeup is still to
come, and an instruction holds the tag of every such producer that has not completed execution (spec file 70, sections 4 to 6). -/
def Obligations.WakeupSoundnessIsKept : Prop :=
  ∀ s t, Sized s → ProgramOrder s → RmtSound s → Timed s → GroupAligned s → InFlight s → WakeupSound s →
    step s = .next t → WakeupSound t

/-! ## Every run -/

/-- In every run the k-th record of OUT has sequence number k, and `head` has advanced once for each: retirement order is sequence
order is head order (spec file 20, section 3). That the numbers begin with 0 is the spec's decision D5 (log 5, PRESUMED). -/
def Obligations.RetirementOrder : Prop :=
  ∀ s, Reachable s → s.out.map (·.seq) = List.range s.out.length ∧ s.head = s.out.length % s.cfg.robSize

/-- In every run the nine stamps of a retired instruction are set and strictly increasing (rule R242), and the execute stage lasts
exactly the latency of its class, 1, 2 or 5 (rules R104, R244); each earlier duration is the distance to the next stamp. -/
def Obligations.RetiredTimestampsAndLatency : Prop :=
  ∀ s, Reachable s → ∀ r ∈ s.out,
    (∀ p q, p.next = some q → ∃ a b, (r.times.get p).cyc = some a ∧ (r.times.get q).cyc = some b ∧ a < b ∧
      (r.times.get p).dur = b - a) ∧
    (r.times.get .ex).dur = (match r.op with | .t0 => 1 | .t1 => 2 | .t2 => 5) ∧
    (r.times.get .fe).dur = 1 ∧ (r.times.get .wb).dur = 1 ∧ 1 ≤ (r.times.get .rt).dur

/-- In every run EXL never exceeds `5 * WIDTH`, when Execute has run at most `4 * WIDTH` entries are left, so the cap guard of Issue is
closed in no tick, and every completion finds room in WB: nothing is deferred (spec file 70, section 4). -/
def Obligations.ExecutionListIsBounded : Prop :=
  ∀ s, Reachable s → s.exl.length ≤ 5 * s.cfg.width ∧
    s.retire.writeback.execute.exl.length ≤ 4 * s.cfg.width ∧
    s.retire.writeback.execute.exlFull = false ∧
    s.retire.writeback.execute.wb.length = s.retire.writeback.completing.length ∧
    ∀ e ∈ s.retire.writeback.execute.exl, 1 ≤ e.rem

/-- In every run no wakeup is lost: a source tag held in DI or the IQ names the most recent older producer of its register, whose
broadcast is still to come, one held in RR such a producer or one whose completion the snap will see, and no instruction in flight
lacks the tag of such a producer that has not completed (spec file 70, sections 4 to 6). -/
def Obligations.NoWakeupIsLost : Prop := ∀ s, Reachable s → WakeupSound s

/-- In every run a read after a write waits: where `p` is the last retired instruction before `c` that writes a source register of `c`,
`c` enters execution no earlier than `p` is written back, and at least the latency of `p` after `p` entered it (spec file 70, section
6). -/
def Obligations.ReadAfterWriteWaits : Prop :=
  ∀ (s : State) (m n : Nat) (p c : TimingRecord) (r : ArfIndex), Reachable s →
    s.out[m]? = some p → s.out[n]? = some c → m < n → p.dst = some r → (c.src1 = some r ∨ c.src2 = some r) →
    (∀ k q, m < k → k < n → s.out[k]? = some q → q.dst ≠ some r) →
      ∃ e b a, (p.times.get .ex).cyc = some e ∧ (p.times.get .wb).cyc = some b ∧ (c.times.get .ex).cyc = some a ∧
        b ≤ a ∧ e + (match p.op with | .t0 => 1 | .t1 => 2 | .t2 => 5) ≤ a

/-- The state at the end of a run: all fetched instructions are emitted, `head = tail = COUNT mod ROB_SIZE`, no register is mapped, and
`ready` is set in exactly the slots ever allocated (spec file 10, section 10). -/
def Obligations.StateAtEndOfRun : Prop :=
  ∀ s, Reachable s → s.done = true →
    s.traceDone = true ∧ s.out.length = s.seqNext ∧ s.head = s.seqNext % s.cfg.robSize ∧ s.tail = s.head ∧
    (∀ r : ArfIndex, s.rmt[r].valid = false) ∧
    (∀ (k : Nat) (x : RobSlot), s.rob[k]? = some x → x.valid = false ∧ (x.ready = true ↔ k < s.seqNext))

/-- One instruction alone in a drained engine of any configuration that meets the liveness precondition takes the unstalled timeline of
its class: nine stages from its fetch cycle on, `8 + LAT` ticks, and the engine stands drained again (spec file 40, section 2; spec
file 70, section 7). -/
def Obligations.LoneInstructionTimeline : Prop :=
  ∀ (s : State) (i : Instr), Sized s → Drained s → s.cfg.live = true → s.traceDone = false → s.trace = [encode i] →
    ∃ t, run (8 + latency i.op) s = .next t ∧ t.done = true ∧ Drained t ∧ t.cycle = s.cycle + 8 + latency i.op ∧
      t.seqNext = s.seqNext + 1 ∧
      t.out = s.out ++ [{
        seq := s.seqNext
        op := i.op
        src1 := i.src1
        src2 := i.src2
        dst := i.dst
        times := unstalledTimes i.op s.cycle }]

/-- With `WIDTH` larger than `ROB_SIZE` or `IQ_SIZE` a run that has fetched an instruction never stops, never fails and emits nothing
(spec file 60, section 12; that such a configuration is no error is the spec's decision D2). -/
def Obligations.OversizedWidthHangs : Prop :=
  ∀ (cfg : Config) (line : TraceLine) (rest : List TraceLine), cfg.wellFormed = true →
    (cfg.robSize < cfg.width ∨ cfg.iqSize < cfg.width) → lineIsRecord line = true →
    (∀ l ∈ rest, lineInDomain l = true) →
      ∀ n, ∃ t, run n (State.start cfg (line :: rest)) = .next t ∧ t.continues = true ∧ t.cycle = n ∧ t.out = []

/-- With `WIDTH` at most `ROB_SIZE` and `IQ_SIZE` every run on an in-domain trace stops, after at most `12 * COUNT + 1` cycles (spec file
70, section 5; the precondition is the spec's decision D2). -/
def Obligations.EveryLiveRunTerminates : Prop :=
  ∀ (cfg : Config) (trace : List TraceLine), cfg.live = true → (∀ l ∈ trace, lineInDomain l = true) →
    ∃ n t, run n (State.start cfg trace) = .next t ∧ t.done = true ∧ t.cycle ≤ 12 * t.seqNext + 1

/-- The `pc` and the `wbDone` flag of the records in flight are inert: with both erased the step is the same but for them, so no stage
reads either (spec file 10, sections 1 and 3). -/
def Obligations.PcAndDoneFlagAreInert : Prop :=
  ∀ s t, step s = .next t → ∃ u, step s.eraseInert = .next u ∧ u.eraseInert = t.eraseInert
end

