-- ==== Sys2Proof/Laws/Decode.lean ====
section
/-!
SUPPORT. Register fields and the operation type as numbers: the two directions of rules R82 and R83 agree.
-/

namespace Sys2Proof

theorem regNumber_some (r : ArfIndex) : regNumber (some r) = (r.val : Int) := rfl

theorem regOfNumber_ofNat {n : Nat} (h : n < numArf) : regOfNumber (n : Int) = some (some ⟨n, h⟩) := by
  have h' : n < 67 := h
  unfold regOfNumber
  rw [if_neg (by omega), dif_pos (by omega)]
  rfl

theorem regOfNumber_regNumber (f : RegField) : regOfNumber (regNumber f) = some f := by
  cases f with
  | none => rfl
  | some r => exact regOfNumber_ofNat r.isLt

theorem regNumber_range (f : RegField) : -1 ≤ regNumber f ∧ regNumber f ≤ 66 := by
  cases f with
  | none => exact ⟨by decide, by decide⟩
  | some r =>
    have h : r.val < 67 := r.isLt
    rw [regNumber_some]
    omega

theorem regInDomain_regNumber (f : RegField) : regInDomain (regNumber f) = true := by
  unfold regInDomain
  rw [decide_eq_true (regNumber_range f).1, decide_eq_true (regNumber_range f).2]
  rfl

theorem opOfNumber_code (t : OpType) : opOfNumber (t.code : Int) = some t := by cases t <;> rfl

theorem opTypeInDomain_code (t : OpType) : opTypeInDomain (t.code : Int) = true := by cases t <;> rfl

theorem pcInDomain_toNat (pc : Pc) : pcInDomain pc.toNat = true := by
  simp only [pcInDomain, decide_eq_true_eq]
  exact pc.isLt

/-- The fields of an instruction lie in their domains, and lead back to it. -/
theorem Instr.ofRaw_ofFields (t : OpType) (pc : Pc) (d a b : RegField) :
    Instr.ofRaw ⟨pc.toNat, (t.code : Int), regNumber d, regNumber a, regNumber b⟩ = some (Instr.ofFields t pc d a b) := by
  simp only [Instr.ofRaw, pcInDomain_toNat, opOfNumber_code, regOfNumber_regNumber, if_true, BitVec.ofNat_toNat]
  simp

theorem RawRecord.wellFormed_ofFields (t : OpType) (pc : Pc) (d a b : RegField) :
    RawRecord.wellFormed ⟨pc.toNat, (t.code : Int), regNumber d, regNumber a, regNumber b⟩ = true := by
  simp only [RawRecord.wellFormed, pcInDomain_toNat, opTypeInDomain_code, regInDomain_regNumber, Bool.and_self]

end Sys2Proof
end

