-- ==== Sys2Proof/Laws/State.lean ====
section
/-!
SUPPORT. One lemma per field per named update of `State`, true by `rfl`, and the same for the updates of an instruction record,
so that no later proof unfolds a record update.
-/

namespace Sys2Proof.Machine

/-! `State.broadcast` -/

@[simp] theorem State.broadcast_cfg (s : State) (t : Option Nat) : (s.broadcast t).cfg = s.cfg := rfl
@[simp] theorem State.broadcast_cycle (s : State) (t : Option Nat) : (s.broadcast t).cycle = s.cycle := rfl
@[simp] theorem State.broadcast_seqNext (s : State) (t : Option Nat) : (s.broadcast t).seqNext = s.seqNext := rfl
@[simp] theorem State.broadcast_traceDone (s : State) (t : Option Nat) : (s.broadcast t).traceDone = s.traceDone := rfl
@[simp] theorem State.broadcast_de (s : State) (t : Option Nat) : (s.broadcast t).de = s.de := rfl
@[simp] theorem State.broadcast_rn (s : State) (t : Option Nat) : (s.broadcast t).rn = s.rn := rfl
@[simp] theorem State.broadcast_wb (s : State) (t : Option Nat) : (s.broadcast t).wb = s.wb := rfl
@[simp] theorem State.broadcast_exl (s : State) (t : Option Nat) : (s.broadcast t).exl = s.exl := rfl
@[simp] theorem State.broadcast_rob (s : State) (t : Option Nat) : (s.broadcast t).rob = s.rob := rfl
@[simp] theorem State.broadcast_head (s : State) (t : Option Nat) : (s.broadcast t).head = s.head := rfl
@[simp] theorem State.broadcast_tail (s : State) (t : Option Nat) : (s.broadcast t).tail = s.tail := rfl
@[simp] theorem State.broadcast_rmt (s : State) (t : Option Nat) : (s.broadcast t).rmt = s.rmt := rfl
@[simp] theorem State.broadcast_out (s : State) (t : Option Nat) : (s.broadcast t).out = s.out := rfl
@[simp] theorem State.broadcast_trace (s : State) (t : Option Nat) : (s.broadcast t).trace = s.trace := rfl

/-! `State.retireOne` -/

@[simp] theorem State.retireOne_cfg (s : State) (x : RobSlot) : (s.retireOne x).cfg = s.cfg := rfl
@[simp] theorem State.retireOne_cycle (s : State) (x : RobSlot) : (s.retireOne x).cycle = s.cycle := rfl
@[simp] theorem State.retireOne_seqNext (s : State) (x : RobSlot) : (s.retireOne x).seqNext = s.seqNext := rfl
@[simp] theorem State.retireOne_traceDone (s : State) (x : RobSlot) : (s.retireOne x).traceDone = s.traceDone := rfl
@[simp] theorem State.retireOne_de (s : State) (x : RobSlot) : (s.retireOne x).de = s.de := rfl
@[simp] theorem State.retireOne_rn (s : State) (x : RobSlot) : (s.retireOne x).rn = s.rn := rfl
@[simp] theorem State.retireOne_rr (s : State) (x : RobSlot) : (s.retireOne x).rr = s.rr := rfl
@[simp] theorem State.retireOne_di (s : State) (x : RobSlot) : (s.retireOne x).di = s.di := rfl
@[simp] theorem State.retireOne_wb (s : State) (x : RobSlot) : (s.retireOne x).wb = s.wb := rfl
@[simp] theorem State.retireOne_exl (s : State) (x : RobSlot) : (s.retireOne x).exl = s.exl := rfl
@[simp] theorem State.retireOne_tail (s : State) (x : RobSlot) : (s.retireOne x).tail = s.tail := rfl
@[simp] theorem State.retireOne_iq (s : State) (x : RobSlot) : (s.retireOne x).iq = s.iq := rfl
@[simp] theorem State.retireOne_trace (s : State) (x : RobSlot) : (s.retireOne x).trace = s.trace := rfl

/-! `State.completeOne` -/

@[simp] theorem State.completeOne_cfg (s : State) (e : ExlEntry) : (s.completeOne e).cfg = s.cfg := rfl
@[simp] theorem State.completeOne_cycle (s : State) (e : ExlEntry) : (s.completeOne e).cycle = s.cycle := rfl
@[simp] theorem State.completeOne_seqNext (s : State) (e : ExlEntry) : (s.completeOne e).seqNext = s.seqNext := rfl
@[simp] theorem State.completeOne_traceDone (s : State) (e : ExlEntry) : (s.completeOne e).traceDone = s.traceDone := rfl
@[simp] theorem State.completeOne_de (s : State) (e : ExlEntry) : (s.completeOne e).de = s.de := rfl
@[simp] theorem State.completeOne_rn (s : State) (e : ExlEntry) : (s.completeOne e).rn = s.rn := rfl
@[simp] theorem State.completeOne_rob (s : State) (e : ExlEntry) : (s.completeOne e).rob = s.rob := rfl
@[simp] theorem State.completeOne_head (s : State) (e : ExlEntry) : (s.completeOne e).head = s.head := rfl
@[simp] theorem State.completeOne_tail (s : State) (e : ExlEntry) : (s.completeOne e).tail = s.tail := rfl
@[simp] theorem State.completeOne_rmt (s : State) (e : ExlEntry) : (s.completeOne e).rmt = s.rmt := rfl
@[simp] theorem State.completeOne_out (s : State) (e : ExlEntry) : (s.completeOne e).out = s.out := rfl
@[simp] theorem State.completeOne_trace (s : State) (e : ExlEntry) : (s.completeOne e).trace = s.trace := rfl

/-! `State.issueOne` -/

@[simp] theorem State.issueOne_cfg (s : State) (k : Nat) (x : IqSlot) : (s.issueOne k x).cfg = s.cfg := rfl
@[simp] theorem State.issueOne_cycle (s : State) (k : Nat) (x : IqSlot) : (s.issueOne k x).cycle = s.cycle := rfl
@[simp] theorem State.issueOne_seqNext (s : State) (k : Nat) (x : IqSlot) : (s.issueOne k x).seqNext = s.seqNext := rfl
@[simp] theorem State.issueOne_traceDone (s : State) (k : Nat) (x : IqSlot) : (s.issueOne k x).traceDone = s.traceDone := rfl
@[simp] theorem State.issueOne_de (s : State) (k : Nat) (x : IqSlot) : (s.issueOne k x).de = s.de := rfl
@[simp] theorem State.issueOne_rn (s : State) (k : Nat) (x : IqSlot) : (s.issueOne k x).rn = s.rn := rfl
@[simp] theorem State.issueOne_rr (s : State) (k : Nat) (x : IqSlot) : (s.issueOne k x).rr = s.rr := rfl
@[simp] theorem State.issueOne_di (s : State) (k : Nat) (x : IqSlot) : (s.issueOne k x).di = s.di := rfl
@[simp] theorem State.issueOne_wb (s : State) (k : Nat) (x : IqSlot) : (s.issueOne k x).wb = s.wb := rfl
@[simp] theorem State.issueOne_rob (s : State) (k : Nat) (x : IqSlot) : (s.issueOne k x).rob = s.rob := rfl
@[simp] theorem State.issueOne_head (s : State) (k : Nat) (x : IqSlot) : (s.issueOne k x).head = s.head := rfl
@[simp] theorem State.issueOne_tail (s : State) (k : Nat) (x : IqSlot) : (s.issueOne k x).tail = s.tail := rfl
@[simp] theorem State.issueOne_rmt (s : State) (k : Nat) (x : IqSlot) : (s.issueOne k x).rmt = s.rmt := rfl
@[simp] theorem State.issueOne_out (s : State) (k : Nat) (x : IqSlot) : (s.issueOne k x).out = s.out := rfl
@[simp] theorem State.issueOne_trace (s : State) (k : Nat) (x : IqSlot) : (s.issueOne k x).trace = s.trace := rfl

/-! `State.renameOne` -/

@[simp] theorem State.renameOne_cfg (s : State) (i : InsRec) : (s.renameOne i).cfg = s.cfg := rfl
@[simp] theorem State.renameOne_cycle (s : State) (i : InsRec) : (s.renameOne i).cycle = s.cycle := rfl
@[simp] theorem State.renameOne_seqNext (s : State) (i : InsRec) : (s.renameOne i).seqNext = s.seqNext := rfl
@[simp] theorem State.renameOne_traceDone (s : State) (i : InsRec) : (s.renameOne i).traceDone = s.traceDone := rfl
@[simp] theorem State.renameOne_de (s : State) (i : InsRec) : (s.renameOne i).de = s.de := rfl
@[simp] theorem State.renameOne_rn (s : State) (i : InsRec) : (s.renameOne i).rn = s.rn := rfl
@[simp] theorem State.renameOne_di (s : State) (i : InsRec) : (s.renameOne i).di = s.di := rfl
@[simp] theorem State.renameOne_wb (s : State) (i : InsRec) : (s.renameOne i).wb = s.wb := rfl
@[simp] theorem State.renameOne_exl (s : State) (i : InsRec) : (s.renameOne i).exl = s.exl := rfl
@[simp] theorem State.renameOne_head (s : State) (i : InsRec) : (s.renameOne i).head = s.head := rfl
@[simp] theorem State.renameOne_iq (s : State) (i : InsRec) : (s.renameOne i).iq = s.iq := rfl
@[simp] theorem State.renameOne_out (s : State) (i : InsRec) : (s.renameOne i).out = s.out := rfl
@[simp] theorem State.renameOne_trace (s : State) (i : InsRec) : (s.renameOne i).trace = s.trace := rfl

/-! `State.fetchOne` -/

@[simp] theorem State.fetchOne_cfg (s : State) (op : OpType) (pc : Pc) (d a b : RegField) : (s.fetchOne op pc d a b).cfg = s.cfg := rfl
@[simp] theorem State.fetchOne_cycle (s : State) (op : OpType) (pc : Pc) (d a b : RegField) : (s.fetchOne op pc d a b).cycle = s.cycle := rfl
@[simp] theorem State.fetchOne_traceDone (s : State) (op : OpType) (pc : Pc) (d a b : RegField) : (s.fetchOne op pc d a b).traceDone = s.traceDone := rfl
@[simp] theorem State.fetchOne_rn (s : State) (op : OpType) (pc : Pc) (d a b : RegField) : (s.fetchOne op pc d a b).rn = s.rn := rfl
@[simp] theorem State.fetchOne_rr (s : State) (op : OpType) (pc : Pc) (d a b : RegField) : (s.fetchOne op pc d a b).rr = s.rr := rfl
@[simp] theorem State.fetchOne_di (s : State) (op : OpType) (pc : Pc) (d a b : RegField) : (s.fetchOne op pc d a b).di = s.di := rfl
@[simp] theorem State.fetchOne_wb (s : State) (op : OpType) (pc : Pc) (d a b : RegField) : (s.fetchOne op pc d a b).wb = s.wb := rfl
@[simp] theorem State.fetchOne_exl (s : State) (op : OpType) (pc : Pc) (d a b : RegField) : (s.fetchOne op pc d a b).exl = s.exl := rfl
@[simp] theorem State.fetchOne_rob (s : State) (op : OpType) (pc : Pc) (d a b : RegField) : (s.fetchOne op pc d a b).rob = s.rob := rfl
@[simp] theorem State.fetchOne_head (s : State) (op : OpType) (pc : Pc) (d a b : RegField) : (s.fetchOne op pc d a b).head = s.head := rfl
@[simp] theorem State.fetchOne_tail (s : State) (op : OpType) (pc : Pc) (d a b : RegField) : (s.fetchOne op pc d a b).tail = s.tail := rfl
@[simp] theorem State.fetchOne_rmt (s : State) (op : OpType) (pc : Pc) (d a b : RegField) : (s.fetchOne op pc d a b).rmt = s.rmt := rfl
@[simp] theorem State.fetchOne_iq (s : State) (op : OpType) (pc : Pc) (d a b : RegField) : (s.fetchOne op pc d a b).iq = s.iq := rfl
@[simp] theorem State.fetchOne_out (s : State) (op : OpType) (pc : Pc) (d a b : RegField) : (s.fetchOne op pc d a b).out = s.out := rfl
@[simp] theorem State.fetchOne_trace (s : State) (op : OpType) (pc : Pc) (d a b : RegField) : (s.fetchOne op pc d a b).trace = s.trace := rfl

/-! `State.writeback` -/

@[simp] theorem State.writeback_cfg (s : State) : (s.writeback).cfg = s.cfg := rfl
@[simp] theorem State.writeback_cycle (s : State) : (s.writeback).cycle = s.cycle := rfl
@[simp] theorem State.writeback_seqNext (s : State) : (s.writeback).seqNext = s.seqNext := rfl
@[simp] theorem State.writeback_traceDone (s : State) : (s.writeback).traceDone = s.traceDone := rfl
@[simp] theorem State.writeback_de (s : State) : (s.writeback).de = s.de := rfl
@[simp] theorem State.writeback_rn (s : State) : (s.writeback).rn = s.rn := rfl
@[simp] theorem State.writeback_rr (s : State) : (s.writeback).rr = s.rr := rfl
@[simp] theorem State.writeback_di (s : State) : (s.writeback).di = s.di := rfl
@[simp] theorem State.writeback_exl (s : State) : (s.writeback).exl = s.exl := rfl
@[simp] theorem State.writeback_head (s : State) : (s.writeback).head = s.head := rfl
@[simp] theorem State.writeback_tail (s : State) : (s.writeback).tail = s.tail := rfl
@[simp] theorem State.writeback_rmt (s : State) : (s.writeback).rmt = s.rmt := rfl
@[simp] theorem State.writeback_iq (s : State) : (s.writeback).iq = s.iq := rfl
@[simp] theorem State.writeback_out (s : State) : (s.writeback).out = s.out := rfl
@[simp] theorem State.writeback_trace (s : State) : (s.writeback).trace = s.trace := rfl

/-! `State.regRead` -/

@[simp] theorem State.regRead_cfg (s : State) : (s.regRead).cfg = s.cfg := rfl
@[simp] theorem State.regRead_cycle (s : State) : (s.regRead).cycle = s.cycle := rfl
@[simp] theorem State.regRead_seqNext (s : State) : (s.regRead).seqNext = s.seqNext := rfl
@[simp] theorem State.regRead_traceDone (s : State) : (s.regRead).traceDone = s.traceDone := rfl
@[simp] theorem State.regRead_de (s : State) : (s.regRead).de = s.de := rfl
@[simp] theorem State.regRead_rn (s : State) : (s.regRead).rn = s.rn := rfl
@[simp] theorem State.regRead_wb (s : State) : (s.regRead).wb = s.wb := rfl
@[simp] theorem State.regRead_exl (s : State) : (s.regRead).exl = s.exl := rfl
@[simp] theorem State.regRead_rob (s : State) : (s.regRead).rob = s.rob := rfl
@[simp] theorem State.regRead_head (s : State) : (s.regRead).head = s.head := rfl
@[simp] theorem State.regRead_tail (s : State) : (s.regRead).tail = s.tail := rfl
@[simp] theorem State.regRead_rmt (s : State) : (s.regRead).rmt = s.rmt := rfl
@[simp] theorem State.regRead_iq (s : State) : (s.regRead).iq = s.iq := rfl
@[simp] theorem State.regRead_out (s : State) : (s.regRead).out = s.out := rfl
@[simp] theorem State.regRead_trace (s : State) : (s.regRead).trace = s.trace := rfl

/-! `State.decode` -/

@[simp] theorem State.decode_cfg (s : State) : (s.decode).cfg = s.cfg := rfl
@[simp] theorem State.decode_cycle (s : State) : (s.decode).cycle = s.cycle := rfl
@[simp] theorem State.decode_seqNext (s : State) : (s.decode).seqNext = s.seqNext := rfl
@[simp] theorem State.decode_traceDone (s : State) : (s.decode).traceDone = s.traceDone := rfl
@[simp] theorem State.decode_rr (s : State) : (s.decode).rr = s.rr := rfl
@[simp] theorem State.decode_di (s : State) : (s.decode).di = s.di := rfl
@[simp] theorem State.decode_wb (s : State) : (s.decode).wb = s.wb := rfl
@[simp] theorem State.decode_exl (s : State) : (s.decode).exl = s.exl := rfl
@[simp] theorem State.decode_rob (s : State) : (s.decode).rob = s.rob := rfl
@[simp] theorem State.decode_head (s : State) : (s.decode).head = s.head := rfl
@[simp] theorem State.decode_tail (s : State) : (s.decode).tail = s.tail := rfl
@[simp] theorem State.decode_rmt (s : State) : (s.decode).rmt = s.rmt := rfl
@[simp] theorem State.decode_iq (s : State) : (s.decode).iq = s.iq := rfl
@[simp] theorem State.decode_out (s : State) : (s.decode).out = s.out := rfl
@[simp] theorem State.decode_trace (s : State) : (s.decode).trace = s.trace := rfl

/-! `State.latchEnd` -/

@[simp] theorem State.latchEnd_cfg (s : State) : (s.latchEnd).cfg = s.cfg := rfl
@[simp] theorem State.latchEnd_cycle (s : State) : (s.latchEnd).cycle = s.cycle := rfl
@[simp] theorem State.latchEnd_seqNext (s : State) : (s.latchEnd).seqNext = s.seqNext := rfl
@[simp] theorem State.latchEnd_de (s : State) : (s.latchEnd).de = s.de := rfl
@[simp] theorem State.latchEnd_rn (s : State) : (s.latchEnd).rn = s.rn := rfl
@[simp] theorem State.latchEnd_rr (s : State) : (s.latchEnd).rr = s.rr := rfl
@[simp] theorem State.latchEnd_di (s : State) : (s.latchEnd).di = s.di := rfl
@[simp] theorem State.latchEnd_wb (s : State) : (s.latchEnd).wb = s.wb := rfl
@[simp] theorem State.latchEnd_exl (s : State) : (s.latchEnd).exl = s.exl := rfl
@[simp] theorem State.latchEnd_rob (s : State) : (s.latchEnd).rob = s.rob := rfl
@[simp] theorem State.latchEnd_head (s : State) : (s.latchEnd).head = s.head := rfl
@[simp] theorem State.latchEnd_tail (s : State) : (s.latchEnd).tail = s.tail := rfl
@[simp] theorem State.latchEnd_rmt (s : State) : (s.latchEnd).rmt = s.rmt := rfl
@[simp] theorem State.latchEnd_iq (s : State) : (s.latchEnd).iq = s.iq := rfl
@[simp] theorem State.latchEnd_out (s : State) : (s.latchEnd).out = s.out := rfl

/-! `State.consume` -/

@[simp] theorem State.consume_cfg (s : State) : (s.consume).cfg = s.cfg := rfl
@[simp] theorem State.consume_cycle (s : State) : (s.consume).cycle = s.cycle := rfl
@[simp] theorem State.consume_seqNext (s : State) : (s.consume).seqNext = s.seqNext := rfl
@[simp] theorem State.consume_traceDone (s : State) : (s.consume).traceDone = s.traceDone := rfl
@[simp] theorem State.consume_de (s : State) : (s.consume).de = s.de := rfl
@[simp] theorem State.consume_rn (s : State) : (s.consume).rn = s.rn := rfl
@[simp] theorem State.consume_rr (s : State) : (s.consume).rr = s.rr := rfl
@[simp] theorem State.consume_di (s : State) : (s.consume).di = s.di := rfl
@[simp] theorem State.consume_wb (s : State) : (s.consume).wb = s.wb := rfl
@[simp] theorem State.consume_exl (s : State) : (s.consume).exl = s.exl := rfl
@[simp] theorem State.consume_rob (s : State) : (s.consume).rob = s.rob := rfl
@[simp] theorem State.consume_head (s : State) : (s.consume).head = s.head := rfl
@[simp] theorem State.consume_tail (s : State) : (s.consume).tail = s.tail := rfl
@[simp] theorem State.consume_rmt (s : State) : (s.consume).rmt = s.rmt := rfl
@[simp] theorem State.consume_iq (s : State) : (s.consume).iq = s.iq := rfl
@[simp] theorem State.consume_out (s : State) : (s.consume).out = s.out := rfl

/-! `State.advance` -/

@[simp] theorem State.advance_cfg (s : State) : (s.advance).cfg = s.cfg := rfl
@[simp] theorem State.advance_seqNext (s : State) : (s.advance).seqNext = s.seqNext := rfl
@[simp] theorem State.advance_traceDone (s : State) : (s.advance).traceDone = s.traceDone := rfl
@[simp] theorem State.advance_de (s : State) : (s.advance).de = s.de := rfl
@[simp] theorem State.advance_rn (s : State) : (s.advance).rn = s.rn := rfl
@[simp] theorem State.advance_rr (s : State) : (s.advance).rr = s.rr := rfl
@[simp] theorem State.advance_di (s : State) : (s.advance).di = s.di := rfl
@[simp] theorem State.advance_wb (s : State) : (s.advance).wb = s.wb := rfl
@[simp] theorem State.advance_exl (s : State) : (s.advance).exl = s.exl := rfl
@[simp] theorem State.advance_rob (s : State) : (s.advance).rob = s.rob := rfl
@[simp] theorem State.advance_head (s : State) : (s.advance).head = s.head := rfl
@[simp] theorem State.advance_tail (s : State) : (s.advance).tail = s.tail := rfl
@[simp] theorem State.advance_rmt (s : State) : (s.advance).rmt = s.rmt := rfl
@[simp] theorem State.advance_iq (s : State) : (s.advance).iq = s.iq := rfl
@[simp] theorem State.advance_out (s : State) : (s.advance).out = s.out := rfl
@[simp] theorem State.advance_trace (s : State) : (s.advance).trace = s.trace := rfl

/-! What each named update does to the fields it changes. -/

@[simp] theorem State.broadcast_iq (s : State) (t : Option Nat) : (s.broadcast t).iq = s.iq.map fun x => x.wake t := rfl
@[simp] theorem State.broadcast_di (s : State) (t : Option Nat) : (s.broadcast t).di = s.di.map fun i => i.wake t := rfl
@[simp] theorem State.broadcast_rr (s : State) (t : Option Nat) : (s.broadcast t).rr = s.rr.map fun i => i.wake t := rfl
@[simp] theorem State.retireOne_out (s : State) (x : RobSlot) :
    (s.retireOne x).out = s.out ++ [(x.ins.leave .rt s.cycle).timing] := rfl
@[simp] theorem State.retireOne_rmt (s : State) (x : RobSlot) : (s.retireOne x).rmt = clearDest s.rmt x.dstArf s.head := rfl
@[simp] theorem State.retireOne_rob (s : State) (x : RobSlot) :
    (s.retireOne x).rob = s.rob.set s.head { x with valid := false } := rfl
@[simp] theorem State.retireOne_head (s : State) (x : RobSlot) : (s.retireOne x).head = robSucc s.cfg s.head := rfl
@[simp] theorem State.completeOne_iq (s : State) (e : ExlEntry) :
    (s.completeOne e).iq = s.iq.map fun x => x.wake e.ins.dstTag := rfl
@[simp] theorem State.completeOne_di (s : State) (e : ExlEntry) :
    (s.completeOne e).di = s.di.map fun i => i.wake e.ins.dstTag := rfl
@[simp] theorem State.completeOne_rr (s : State) (e : ExlEntry) :
    (s.completeOne e).rr = s.rr.map fun i => i.wake e.ins.dstTag := rfl
@[simp] theorem State.issueOne_exl (s : State) (k : Nat) (x : IqSlot) :
    (s.issueOne k x).exl = s.exl ++ [{ ins := x.ins.leave .is s.cycle, rem := latency x.ins.op }] := rfl
@[simp] theorem State.issueOne_iq (s : State) (k : Nat) (x : IqSlot) :
    (s.issueOne k x).iq = s.iq.set k { x with valid := false } := rfl
@[simp] theorem State.renameOne_rob (s : State) (i : InsRec) :
    (s.renameOne i).rob = s.rob.set s.tail { valid := true, ready := false, ins := i, dstArf := i.dst } := rfl
@[simp] theorem State.renameOne_rmt (s : State) (i : InsRec) : (s.renameOne i).rmt = mapDest s.rmt i.dst s.tail := rfl
@[simp] theorem State.renameOne_rr (s : State) (i : InsRec) :
    (s.renameOne i).rr = s.rr ++ [i.renamed s.rmt s.tail s.cycle] := rfl
@[simp] theorem State.renameOne_tail (s : State) (i : InsRec) : (s.renameOne i).tail = robSucc s.cfg s.tail := rfl
@[simp] theorem State.writeback_wb (s : State) : s.writeback.wb = [] := rfl
@[simp] theorem State.latchEnd_traceDone (s : State) : s.latchEnd.traceDone = true := rfl
@[simp] theorem State.latchEnd_trace (s : State) : s.latchEnd.trace = [] := rfl
@[simp] theorem State.consume_trace (s : State) : s.consume.trace = s.trace.tail := rfl
@[simp] theorem State.advance_cycle (s : State) : s.advance.cycle = s.cycle + 1 := rfl

/-! The updates of an instruction record. -/

@[simp] theorem InsRec.stamp_pc (i : InsRec) (st : Stage) (c : Nat) : (i.stamp st c).pc = i.pc := rfl
@[simp] theorem InsRec.stamp_op (i : InsRec) (st : Stage) (c : Nat) : (i.stamp st c).op = i.op := rfl
@[simp] theorem InsRec.stamp_dst (i : InsRec) (st : Stage) (c : Nat) : (i.stamp st c).dst = i.dst := rfl
@[simp] theorem InsRec.stamp_src1 (i : InsRec) (st : Stage) (c : Nat) : (i.stamp st c).src1 = i.src1 := rfl
@[simp] theorem InsRec.stamp_src2 (i : InsRec) (st : Stage) (c : Nat) : (i.stamp st c).src2 = i.src2 := rfl
@[simp] theorem InsRec.stamp_seq (i : InsRec) (st : Stage) (c : Nat) : (i.stamp st c).seq = i.seq := rfl
@[simp] theorem InsRec.stamp_dstTag (i : InsRec) (st : Stage) (c : Nat) : (i.stamp st c).dstTag = i.dstTag := rfl
@[simp] theorem InsRec.stamp_src1Tag (i : InsRec) (st : Stage) (c : Nat) : (i.stamp st c).src1Tag = i.src1Tag := rfl
@[simp] theorem InsRec.stamp_src2Tag (i : InsRec) (st : Stage) (c : Nat) : (i.stamp st c).src2Tag = i.src2Tag := rfl
@[simp] theorem InsRec.stamp_wbDone (i : InsRec) (st : Stage) (c : Nat) : (i.stamp st c).wbDone = i.wbDone := rfl

@[simp] theorem InsRec.leave_pc (i : InsRec) (st : Stage) (c : Nat) : (i.leave st c).pc = i.pc := rfl
@[simp] theorem InsRec.leave_op (i : InsRec) (st : Stage) (c : Nat) : (i.leave st c).op = i.op := rfl
@[simp] theorem InsRec.leave_dst (i : InsRec) (st : Stage) (c : Nat) : (i.leave st c).dst = i.dst := rfl
@[simp] theorem InsRec.leave_src1 (i : InsRec) (st : Stage) (c : Nat) : (i.leave st c).src1 = i.src1 := rfl
@[simp] theorem InsRec.leave_src2 (i : InsRec) (st : Stage) (c : Nat) : (i.leave st c).src2 = i.src2 := rfl
@[simp] theorem InsRec.leave_seq (i : InsRec) (st : Stage) (c : Nat) : (i.leave st c).seq = i.seq := rfl
@[simp] theorem InsRec.leave_dstTag (i : InsRec) (st : Stage) (c : Nat) : (i.leave st c).dstTag = i.dstTag := rfl
@[simp] theorem InsRec.leave_src1Tag (i : InsRec) (st : Stage) (c : Nat) : (i.leave st c).src1Tag = i.src1Tag := rfl
@[simp] theorem InsRec.leave_src2Tag (i : InsRec) (st : Stage) (c : Nat) : (i.leave st c).src2Tag = i.src2Tag := rfl
@[simp] theorem InsRec.leave_wbDone (i : InsRec) (st : Stage) (c : Nat) : (i.leave st c).wbDone = i.wbDone := rfl

@[simp] theorem InsRec.snap_pc (i : InsRec) (rob : List RobSlot) : (i.snap rob).pc = i.pc := rfl
@[simp] theorem InsRec.snap_op (i : InsRec) (rob : List RobSlot) : (i.snap rob).op = i.op := rfl
@[simp] theorem InsRec.snap_dst (i : InsRec) (rob : List RobSlot) : (i.snap rob).dst = i.dst := rfl
@[simp] theorem InsRec.snap_src1 (i : InsRec) (rob : List RobSlot) : (i.snap rob).src1 = i.src1 := rfl
@[simp] theorem InsRec.snap_src2 (i : InsRec) (rob : List RobSlot) : (i.snap rob).src2 = i.src2 := rfl
@[simp] theorem InsRec.snap_seq (i : InsRec) (rob : List RobSlot) : (i.snap rob).seq = i.seq := rfl
@[simp] theorem InsRec.snap_times (i : InsRec) (rob : List RobSlot) : (i.snap rob).times = i.times := rfl
@[simp] theorem InsRec.snap_dstTag (i : InsRec) (rob : List RobSlot) : (i.snap rob).dstTag = i.dstTag := rfl
@[simp] theorem InsRec.snap_wbDone (i : InsRec) (rob : List RobSlot) : (i.snap rob).wbDone = i.wbDone := rfl

@[simp] theorem InsRec.wake_pc (i : InsRec) (t : Option Nat) : (i.wake t).pc = i.pc := rfl
@[simp] theorem InsRec.wake_op (i : InsRec) (t : Option Nat) : (i.wake t).op = i.op := rfl
@[simp] theorem InsRec.wake_dst (i : InsRec) (t : Option Nat) : (i.wake t).dst = i.dst := rfl
@[simp] theorem InsRec.wake_src1 (i : InsRec) (t : Option Nat) : (i.wake t).src1 = i.src1 := rfl
@[simp] theorem InsRec.wake_src2 (i : InsRec) (t : Option Nat) : (i.wake t).src2 = i.src2 := rfl
@[simp] theorem InsRec.wake_seq (i : InsRec) (t : Option Nat) : (i.wake t).seq = i.seq := rfl
@[simp] theorem InsRec.wake_times (i : InsRec) (t : Option Nat) : (i.wake t).times = i.times := rfl
@[simp] theorem InsRec.wake_dstTag (i : InsRec) (t : Option Nat) : (i.wake t).dstTag = i.dstTag := rfl
@[simp] theorem InsRec.wake_wbDone (i : InsRec) (t : Option Nat) : (i.wake t).wbDone = i.wbDone := rfl

@[simp] theorem InsRec.renamed_pc (i : InsRec) (rmt : Vector RmtEntry numArf) (t c : Nat) : (i.renamed rmt t c).pc = i.pc := rfl
@[simp] theorem InsRec.renamed_op (i : InsRec) (rmt : Vector RmtEntry numArf) (t c : Nat) : (i.renamed rmt t c).op = i.op := rfl
@[simp] theorem InsRec.renamed_dst (i : InsRec) (rmt : Vector RmtEntry numArf) (t c : Nat) : (i.renamed rmt t c).dst = i.dst := rfl
@[simp] theorem InsRec.renamed_src1 (i : InsRec) (rmt : Vector RmtEntry numArf) (t c : Nat) : (i.renamed rmt t c).src1 = i.src1 := rfl
@[simp] theorem InsRec.renamed_src2 (i : InsRec) (rmt : Vector RmtEntry numArf) (t c : Nat) : (i.renamed rmt t c).src2 = i.src2 := rfl
@[simp] theorem InsRec.renamed_seq (i : InsRec) (rmt : Vector RmtEntry numArf) (t c : Nat) : (i.renamed rmt t c).seq = i.seq := rfl
@[simp] theorem InsRec.renamed_wbDone (i : InsRec) (rmt : Vector RmtEntry numArf) (t c : Nat) : (i.renamed rmt t c).wbDone = i.wbDone := rfl

@[simp] theorem ExlEntry.finish_pc (e : ExlEntry) (c : Nat) : (e.finish c).pc = e.ins.pc := rfl
@[simp] theorem ExlEntry.finish_op (e : ExlEntry) (c : Nat) : (e.finish c).op = e.ins.op := rfl
@[simp] theorem ExlEntry.finish_dst (e : ExlEntry) (c : Nat) : (e.finish c).dst = e.ins.dst := rfl
@[simp] theorem ExlEntry.finish_src1 (e : ExlEntry) (c : Nat) : (e.finish c).src1 = e.ins.src1 := rfl
@[simp] theorem ExlEntry.finish_src2 (e : ExlEntry) (c : Nat) : (e.finish c).src2 = e.ins.src2 := rfl
@[simp] theorem ExlEntry.finish_seq (e : ExlEntry) (c : Nat) : (e.finish c).seq = e.ins.seq := rfl
@[simp] theorem ExlEntry.finish_dstTag (e : ExlEntry) (c : Nat) : (e.finish c).dstTag = e.ins.dstTag := rfl
@[simp] theorem ExlEntry.finish_src1Tag (e : ExlEntry) (c : Nat) : (e.finish c).src1Tag = e.ins.src1Tag := rfl
@[simp] theorem ExlEntry.finish_src2Tag (e : ExlEntry) (c : Nat) : (e.finish c).src2Tag = e.ins.src2Tag := rfl

/-! Stamps and durations (rule R117): what `stamp` and `leave` write for their own stage, and that they leave every other
stage alone. -/

@[simp] theorem Timings.get_set_self (t : Timings) (st : Stage) (v : StageTime) : (t.set st v).get st = v := by
  cases st <;> rfl

@[simp] theorem Timings.get_set_other (t : Timings) {st st' : Stage} (v : StageTime) (h : st' ≠ st) :
    (t.set st v).get st' = t.get st' := by
  cases st <;> cases st' <;> first | rfl | exact absurd rfl h

@[simp] theorem InsRec.stamp_cyc_self (i : InsRec) (st : Stage) (c : Nat) :
    (i.stamp st c).cyc st = some ((i.cyc st).getD c) := by
  simp only [InsRec.cyc, InsRec.stamp, Timings.get_set_self, StageTime.stamp]
  cases (i.times.get st).cyc <;> rfl

@[simp] theorem InsRec.stamp_cyc_other (i : InsRec) {st st' : Stage} (c : Nat) (h : st' ≠ st) :
    (i.stamp st c).cyc st' = i.cyc st' := by
  simp [InsRec.cyc, InsRec.stamp, h]

@[simp] theorem InsRec.stamp_dur (i : InsRec) (st st' : Stage) (c : Nat) : (i.stamp st c).dur st' = i.dur st' := by
  by_cases h : st' = st
  · subst h
    simp [InsRec.dur, InsRec.stamp, StageTime.stamp]
  · simp [InsRec.dur, InsRec.stamp, h]

@[simp] theorem InsRec.leave_cyc (i : InsRec) (st st' : Stage) (c : Nat) : (i.leave st c).cyc st' = i.cyc st' := by
  by_cases h : st' = st
  · subst h
    simp [InsRec.cyc, InsRec.leave, StageTime.leave]
  · simp [InsRec.cyc, InsRec.leave, h]

@[simp] theorem InsRec.leave_dur_other (i : InsRec) {st st' : Stage} (c : Nat) (h : st' ≠ st) :
    (i.leave st c).dur st' = i.dur st' := by
  simp [InsRec.dur, InsRec.leave, h]

/-- The duration of the stage that hands on, where its stamp is set. -/
theorem InsRec.leave_dur_self (i : InsRec) (st : Stage) (c a : Nat) (h : i.cyc st = some a) :
    (i.leave st c).dur st = c - a + 1 := by
  simp only [InsRec.cyc] at h
  simp [InsRec.dur, InsRec.leave, StageTime.leave, h]

@[simp] theorem InsRec.wake_cyc (i : InsRec) (t : Option Nat) (st : Stage) : (i.wake t).cyc st = i.cyc st := rfl
@[simp] theorem InsRec.wake_dur (i : InsRec) (t : Option Nat) (st : Stage) : (i.wake t).dur st = i.dur st := rfl
@[simp] theorem InsRec.snap_cyc (i : InsRec) (rob : List RobSlot) (st : Stage) : (i.snap rob).cyc st = i.cyc st := rfl
@[simp] theorem InsRec.snap_dur (i : InsRec) (rob : List RobSlot) (st : Stage) : (i.snap rob).dur st = i.dur st := rfl

end Sys2Proof.Machine
end

