-- ==== Sys2Proof/Laws/Frames.lean ====
section
/-!
SUPPORT. The frame of every loop and every stage operation: the fields it never writes (the "Writes" lines of the rules
R126, R132, R139, R143, R153, R159, R171, R176), one lemma per field.
-/

namespace Sys2Proof.Machine

/-! `State.retireLoop` -/

@[simp] theorem State.retireLoop_cfg (s : State) (n : Nat) : (s.retireLoop n).cfg = s.cfg := by
  induction n generalizing s with
  | zero => rfl
  | succ n ih =>
    simp only [State.retireLoop]
    split
    · rfl
    · split
      · simp [ih]
      · rfl

@[simp] theorem State.retireLoop_cycle (s : State) (n : Nat) : (s.retireLoop n).cycle = s.cycle := by
  induction n generalizing s with
  | zero => rfl
  | succ n ih =>
    simp only [State.retireLoop]
    split
    · rfl
    · split
      · simp [ih]
      · rfl

@[simp] theorem State.retireLoop_seqNext (s : State) (n : Nat) : (s.retireLoop n).seqNext = s.seqNext := by
  induction n generalizing s with
  | zero => rfl
  | succ n ih =>
    simp only [State.retireLoop]
    split
    · rfl
    · split
      · simp [ih]
      · rfl

@[simp] theorem State.retireLoop_traceDone (s : State) (n : Nat) : (s.retireLoop n).traceDone = s.traceDone := by
  induction n generalizing s with
  | zero => rfl
  | succ n ih =>
    simp only [State.retireLoop]
    split
    · rfl
    · split
      · simp [ih]
      · rfl

@[simp] theorem State.retireLoop_de (s : State) (n : Nat) : (s.retireLoop n).de = s.de := by
  induction n generalizing s with
  | zero => rfl
  | succ n ih =>
    simp only [State.retireLoop]
    split
    · rfl
    · split
      · simp [ih]
      · rfl

@[simp] theorem State.retireLoop_rn (s : State) (n : Nat) : (s.retireLoop n).rn = s.rn := by
  induction n generalizing s with
  | zero => rfl
  | succ n ih =>
    simp only [State.retireLoop]
    split
    · rfl
    · split
      · simp [ih]
      · rfl

@[simp] theorem State.retireLoop_rr (s : State) (n : Nat) : (s.retireLoop n).rr = s.rr := by
  induction n generalizing s with
  | zero => rfl
  | succ n ih =>
    simp only [State.retireLoop]
    split
    · rfl
    · split
      · simp [ih]
      · rfl

@[simp] theorem State.retireLoop_di (s : State) (n : Nat) : (s.retireLoop n).di = s.di := by
  induction n generalizing s with
  | zero => rfl
  | succ n ih =>
    simp only [State.retireLoop]
    split
    · rfl
    · split
      · simp [ih]
      · rfl

@[simp] theorem State.retireLoop_wb (s : State) (n : Nat) : (s.retireLoop n).wb = s.wb := by
  induction n generalizing s with
  | zero => rfl
  | succ n ih =>
    simp only [State.retireLoop]
    split
    · rfl
    · split
      · simp [ih]
      · rfl

@[simp] theorem State.retireLoop_exl (s : State) (n : Nat) : (s.retireLoop n).exl = s.exl := by
  induction n generalizing s with
  | zero => rfl
  | succ n ih =>
    simp only [State.retireLoop]
    split
    · rfl
    · split
      · simp [ih]
      · rfl

@[simp] theorem State.retireLoop_tail (s : State) (n : Nat) : (s.retireLoop n).tail = s.tail := by
  induction n generalizing s with
  | zero => rfl
  | succ n ih =>
    simp only [State.retireLoop]
    split
    · rfl
    · split
      · simp [ih]
      · rfl

@[simp] theorem State.retireLoop_iq (s : State) (n : Nat) : (s.retireLoop n).iq = s.iq := by
  induction n generalizing s with
  | zero => rfl
  | succ n ih =>
    simp only [State.retireLoop]
    split
    · rfl
    · split
      · simp [ih]
      · rfl

@[simp] theorem State.retireLoop_trace (s : State) (n : Nat) : (s.retireLoop n).trace = s.trace := by
  induction n generalizing s with
  | zero => rfl
  | succ n ih =>
    simp only [State.retireLoop]
    split
    · rfl
    · split
      · simp [ih]
      · rfl

/-! `State.completeLoop` -/

@[simp] theorem State.completeLoop_cfg (s : State) (es : List ExlEntry) : (s.completeLoop es).cfg = s.cfg := by
  induction es generalizing s with
  | nil => rfl
  | cons e es ih =>
    simp only [State.completeLoop, ih]
    split <;> rfl

@[simp] theorem State.completeLoop_cycle (s : State) (es : List ExlEntry) : (s.completeLoop es).cycle = s.cycle := by
  induction es generalizing s with
  | nil => rfl
  | cons e es ih =>
    simp only [State.completeLoop, ih]
    split <;> rfl

@[simp] theorem State.completeLoop_seqNext (s : State) (es : List ExlEntry) : (s.completeLoop es).seqNext = s.seqNext := by
  induction es generalizing s with
  | nil => rfl
  | cons e es ih =>
    simp only [State.completeLoop, ih]
    split <;> rfl

@[simp] theorem State.completeLoop_traceDone (s : State) (es : List ExlEntry) : (s.completeLoop es).traceDone = s.traceDone := by
  induction es generalizing s with
  | nil => rfl
  | cons e es ih =>
    simp only [State.completeLoop, ih]
    split <;> rfl

@[simp] theorem State.completeLoop_de (s : State) (es : List ExlEntry) : (s.completeLoop es).de = s.de := by
  induction es generalizing s with
  | nil => rfl
  | cons e es ih =>
    simp only [State.completeLoop, ih]
    split <;> rfl

@[simp] theorem State.completeLoop_rn (s : State) (es : List ExlEntry) : (s.completeLoop es).rn = s.rn := by
  induction es generalizing s with
  | nil => rfl
  | cons e es ih =>
    simp only [State.completeLoop, ih]
    split <;> rfl

@[simp] theorem State.completeLoop_rob (s : State) (es : List ExlEntry) : (s.completeLoop es).rob = s.rob := by
  induction es generalizing s with
  | nil => rfl
  | cons e es ih =>
    simp only [State.completeLoop, ih]
    split <;> rfl

@[simp] theorem State.completeLoop_head (s : State) (es : List ExlEntry) : (s.completeLoop es).head = s.head := by
  induction es generalizing s with
  | nil => rfl
  | cons e es ih =>
    simp only [State.completeLoop, ih]
    split <;> rfl

@[simp] theorem State.completeLoop_tail (s : State) (es : List ExlEntry) : (s.completeLoop es).tail = s.tail := by
  induction es generalizing s with
  | nil => rfl
  | cons e es ih =>
    simp only [State.completeLoop, ih]
    split <;> rfl

@[simp] theorem State.completeLoop_rmt (s : State) (es : List ExlEntry) : (s.completeLoop es).rmt = s.rmt := by
  induction es generalizing s with
  | nil => rfl
  | cons e es ih =>
    simp only [State.completeLoop, ih]
    split <;> rfl

@[simp] theorem State.completeLoop_out (s : State) (es : List ExlEntry) : (s.completeLoop es).out = s.out := by
  induction es generalizing s with
  | nil => rfl
  | cons e es ih =>
    simp only [State.completeLoop, ih]
    split <;> rfl

@[simp] theorem State.completeLoop_trace (s : State) (es : List ExlEntry) : (s.completeLoop es).trace = s.trace := by
  induction es generalizing s with
  | nil => rfl
  | cons e es ih =>
    simp only [State.completeLoop, ih]
    split <;> rfl

/-! `State.issueLoop` -/

@[simp] theorem State.issueLoop_cfg (s : State) (n : Nat) : (s.issueLoop n).cfg = s.cfg := by
  induction n generalizing s with
  | zero => rfl
  | succ n ih =>
    simp only [State.issueLoop]
    split
    · rfl
    · split
      · rfl
      · simp [ih]

@[simp] theorem State.issueLoop_cycle (s : State) (n : Nat) : (s.issueLoop n).cycle = s.cycle := by
  induction n generalizing s with
  | zero => rfl
  | succ n ih =>
    simp only [State.issueLoop]
    split
    · rfl
    · split
      · rfl
      · simp [ih]

@[simp] theorem State.issueLoop_seqNext (s : State) (n : Nat) : (s.issueLoop n).seqNext = s.seqNext := by
  induction n generalizing s with
  | zero => rfl
  | succ n ih =>
    simp only [State.issueLoop]
    split
    · rfl
    · split
      · rfl
      · simp [ih]

@[simp] theorem State.issueLoop_traceDone (s : State) (n : Nat) : (s.issueLoop n).traceDone = s.traceDone := by
  induction n generalizing s with
  | zero => rfl
  | succ n ih =>
    simp only [State.issueLoop]
    split
    · rfl
    · split
      · rfl
      · simp [ih]

@[simp] theorem State.issueLoop_de (s : State) (n : Nat) : (s.issueLoop n).de = s.de := by
  induction n generalizing s with
  | zero => rfl
  | succ n ih =>
    simp only [State.issueLoop]
    split
    · rfl
    · split
      · rfl
      · simp [ih]

@[simp] theorem State.issueLoop_rn (s : State) (n : Nat) : (s.issueLoop n).rn = s.rn := by
  induction n generalizing s with
  | zero => rfl
  | succ n ih =>
    simp only [State.issueLoop]
    split
    · rfl
    · split
      · rfl
      · simp [ih]

@[simp] theorem State.issueLoop_rr (s : State) (n : Nat) : (s.issueLoop n).rr = s.rr := by
  induction n generalizing s with
  | zero => rfl
  | succ n ih =>
    simp only [State.issueLoop]
    split
    · rfl
    · split
      · rfl
      · simp [ih]

@[simp] theorem State.issueLoop_di (s : State) (n : Nat) : (s.issueLoop n).di = s.di := by
  induction n generalizing s with
  | zero => rfl
  | succ n ih =>
    simp only [State.issueLoop]
    split
    · rfl
    · split
      · rfl
      · simp [ih]

@[simp] theorem State.issueLoop_wb (s : State) (n : Nat) : (s.issueLoop n).wb = s.wb := by
  induction n generalizing s with
  | zero => rfl
  | succ n ih =>
    simp only [State.issueLoop]
    split
    · rfl
    · split
      · rfl
      · simp [ih]

@[simp] theorem State.issueLoop_rob (s : State) (n : Nat) : (s.issueLoop n).rob = s.rob := by
  induction n generalizing s with
  | zero => rfl
  | succ n ih =>
    simp only [State.issueLoop]
    split
    · rfl
    · split
      · rfl
      · simp [ih]

@[simp] theorem State.issueLoop_head (s : State) (n : Nat) : (s.issueLoop n).head = s.head := by
  induction n generalizing s with
  | zero => rfl
  | succ n ih =>
    simp only [State.issueLoop]
    split
    · rfl
    · split
      · rfl
      · simp [ih]

@[simp] theorem State.issueLoop_tail (s : State) (n : Nat) : (s.issueLoop n).tail = s.tail := by
  induction n generalizing s with
  | zero => rfl
  | succ n ih =>
    simp only [State.issueLoop]
    split
    · rfl
    · split
      · rfl
      · simp [ih]

@[simp] theorem State.issueLoop_rmt (s : State) (n : Nat) : (s.issueLoop n).rmt = s.rmt := by
  induction n generalizing s with
  | zero => rfl
  | succ n ih =>
    simp only [State.issueLoop]
    split
    · rfl
    · split
      · rfl
      · simp [ih]

@[simp] theorem State.issueLoop_out (s : State) (n : Nat) : (s.issueLoop n).out = s.out := by
  induction n generalizing s with
  | zero => rfl
  | succ n ih =>
    simp only [State.issueLoop]
    split
    · rfl
    · split
      · rfl
      · simp [ih]

@[simp] theorem State.issueLoop_trace (s : State) (n : Nat) : (s.issueLoop n).trace = s.trace := by
  induction n generalizing s with
  | zero => rfl
  | succ n ih =>
    simp only [State.issueLoop]
    split
    · rfl
    · split
      · rfl
      · simp [ih]

/-! `State.dispatchLoop` -/

@[simp] theorem State.dispatchLoop_cfg (s : State) (b : List InsRec) : (s.dispatchLoop b).cfg = s.cfg := by
  induction b generalizing s with
  | nil => rfl
  | cons i b ih =>
    simp only [State.dispatchLoop]
    split
    · rfl
    · simp [ih]

@[simp] theorem State.dispatchLoop_cycle (s : State) (b : List InsRec) : (s.dispatchLoop b).cycle = s.cycle := by
  induction b generalizing s with
  | nil => rfl
  | cons i b ih =>
    simp only [State.dispatchLoop]
    split
    · rfl
    · simp [ih]

@[simp] theorem State.dispatchLoop_seqNext (s : State) (b : List InsRec) : (s.dispatchLoop b).seqNext = s.seqNext := by
  induction b generalizing s with
  | nil => rfl
  | cons i b ih =>
    simp only [State.dispatchLoop]
    split
    · rfl
    · simp [ih]

@[simp] theorem State.dispatchLoop_traceDone (s : State) (b : List InsRec) : (s.dispatchLoop b).traceDone = s.traceDone := by
  induction b generalizing s with
  | nil => rfl
  | cons i b ih =>
    simp only [State.dispatchLoop]
    split
    · rfl
    · simp [ih]

@[simp] theorem State.dispatchLoop_de (s : State) (b : List InsRec) : (s.dispatchLoop b).de = s.de := by
  induction b generalizing s with
  | nil => rfl
  | cons i b ih =>
    simp only [State.dispatchLoop]
    split
    · rfl
    · simp [ih]

@[simp] theorem State.dispatchLoop_rn (s : State) (b : List InsRec) : (s.dispatchLoop b).rn = s.rn := by
  induction b generalizing s with
  | nil => rfl
  | cons i b ih =>
    simp only [State.dispatchLoop]
    split
    · rfl
    · simp [ih]

@[simp] theorem State.dispatchLoop_rr (s : State) (b : List InsRec) : (s.dispatchLoop b).rr = s.rr := by
  induction b generalizing s with
  | nil => rfl
  | cons i b ih =>
    simp only [State.dispatchLoop]
    split
    · rfl
    · simp [ih]

@[simp] theorem State.dispatchLoop_wb (s : State) (b : List InsRec) : (s.dispatchLoop b).wb = s.wb := by
  induction b generalizing s with
  | nil => rfl
  | cons i b ih =>
    simp only [State.dispatchLoop]
    split
    · rfl
    · simp [ih]

@[simp] theorem State.dispatchLoop_exl (s : State) (b : List InsRec) : (s.dispatchLoop b).exl = s.exl := by
  induction b generalizing s with
  | nil => rfl
  | cons i b ih =>
    simp only [State.dispatchLoop]
    split
    · rfl
    · simp [ih]

@[simp] theorem State.dispatchLoop_rob (s : State) (b : List InsRec) : (s.dispatchLoop b).rob = s.rob := by
  induction b generalizing s with
  | nil => rfl
  | cons i b ih =>
    simp only [State.dispatchLoop]
    split
    · rfl
    · simp [ih]

@[simp] theorem State.dispatchLoop_head (s : State) (b : List InsRec) : (s.dispatchLoop b).head = s.head := by
  induction b generalizing s with
  | nil => rfl
  | cons i b ih =>
    simp only [State.dispatchLoop]
    split
    · rfl
    · simp [ih]

@[simp] theorem State.dispatchLoop_tail (s : State) (b : List InsRec) : (s.dispatchLoop b).tail = s.tail := by
  induction b generalizing s with
  | nil => rfl
  | cons i b ih =>
    simp only [State.dispatchLoop]
    split
    · rfl
    · simp [ih]

@[simp] theorem State.dispatchLoop_rmt (s : State) (b : List InsRec) : (s.dispatchLoop b).rmt = s.rmt := by
  induction b generalizing s with
  | nil => rfl
  | cons i b ih =>
    simp only [State.dispatchLoop]
    split
    · rfl
    · simp [ih]

@[simp] theorem State.dispatchLoop_out (s : State) (b : List InsRec) : (s.dispatchLoop b).out = s.out := by
  induction b generalizing s with
  | nil => rfl
  | cons i b ih =>
    simp only [State.dispatchLoop]
    split
    · rfl
    · simp [ih]

@[simp] theorem State.dispatchLoop_trace (s : State) (b : List InsRec) : (s.dispatchLoop b).trace = s.trace := by
  induction b generalizing s with
  | nil => rfl
  | cons i b ih =>
    simp only [State.dispatchLoop]
    split
    · rfl
    · simp [ih]

/-! `State.renameLoop` -/

@[simp] theorem State.renameLoop_cfg (s : State) (b : List InsRec) : (s.renameLoop b).cfg = s.cfg := by
  induction b generalizing s with
  | nil => rfl
  | cons i b ih =>
    simp only [State.renameLoop]
    split
    · simp [ih]
    · rfl

@[simp] theorem State.renameLoop_cycle (s : State) (b : List InsRec) : (s.renameLoop b).cycle = s.cycle := by
  induction b generalizing s with
  | nil => rfl
  | cons i b ih =>
    simp only [State.renameLoop]
    split
    · simp [ih]
    · rfl

@[simp] theorem State.renameLoop_seqNext (s : State) (b : List InsRec) : (s.renameLoop b).seqNext = s.seqNext := by
  induction b generalizing s with
  | nil => rfl
  | cons i b ih =>
    simp only [State.renameLoop]
    split
    · simp [ih]
    · rfl

@[simp] theorem State.renameLoop_traceDone (s : State) (b : List InsRec) : (s.renameLoop b).traceDone = s.traceDone := by
  induction b generalizing s with
  | nil => rfl
  | cons i b ih =>
    simp only [State.renameLoop]
    split
    · simp [ih]
    · rfl

@[simp] theorem State.renameLoop_de (s : State) (b : List InsRec) : (s.renameLoop b).de = s.de := by
  induction b generalizing s with
  | nil => rfl
  | cons i b ih =>
    simp only [State.renameLoop]
    split
    · simp [ih]
    · rfl

@[simp] theorem State.renameLoop_di (s : State) (b : List InsRec) : (s.renameLoop b).di = s.di := by
  induction b generalizing s with
  | nil => rfl
  | cons i b ih =>
    simp only [State.renameLoop]
    split
    · simp [ih]
    · rfl

@[simp] theorem State.renameLoop_wb (s : State) (b : List InsRec) : (s.renameLoop b).wb = s.wb := by
  induction b generalizing s with
  | nil => rfl
  | cons i b ih =>
    simp only [State.renameLoop]
    split
    · simp [ih]
    · rfl

@[simp] theorem State.renameLoop_exl (s : State) (b : List InsRec) : (s.renameLoop b).exl = s.exl := by
  induction b generalizing s with
  | nil => rfl
  | cons i b ih =>
    simp only [State.renameLoop]
    split
    · simp [ih]
    · rfl

@[simp] theorem State.renameLoop_head (s : State) (b : List InsRec) : (s.renameLoop b).head = s.head := by
  induction b generalizing s with
  | nil => rfl
  | cons i b ih =>
    simp only [State.renameLoop]
    split
    · simp [ih]
    · rfl

@[simp] theorem State.renameLoop_iq (s : State) (b : List InsRec) : (s.renameLoop b).iq = s.iq := by
  induction b generalizing s with
  | nil => rfl
  | cons i b ih =>
    simp only [State.renameLoop]
    split
    · simp [ih]
    · rfl

@[simp] theorem State.renameLoop_out (s : State) (b : List InsRec) : (s.renameLoop b).out = s.out := by
  induction b generalizing s with
  | nil => rfl
  | cons i b ih =>
    simp only [State.renameLoop]
    split
    · simp [ih]
    · rfl

@[simp] theorem State.renameLoop_trace (s : State) (b : List InsRec) : (s.renameLoop b).trace = s.trace := by
  induction b generalizing s with
  | nil => rfl
  | cons i b ih =>
    simp only [State.renameLoop]
    split
    · simp [ih]
    · rfl

/-! `State.retire` -/

@[simp] theorem State.retire_cfg (s : State) : s.retire.cfg = s.cfg := by
  simp [State.retire]
@[simp] theorem State.retire_cycle (s : State) : s.retire.cycle = s.cycle := by
  simp [State.retire]
@[simp] theorem State.retire_seqNext (s : State) : s.retire.seqNext = s.seqNext := by
  simp [State.retire]
@[simp] theorem State.retire_traceDone (s : State) : s.retire.traceDone = s.traceDone := by
  simp [State.retire]
@[simp] theorem State.retire_de (s : State) : s.retire.de = s.de := by
  simp [State.retire]
@[simp] theorem State.retire_rn (s : State) : s.retire.rn = s.rn := by
  simp [State.retire]
@[simp] theorem State.retire_rr (s : State) : s.retire.rr = s.rr := by
  simp [State.retire]
@[simp] theorem State.retire_di (s : State) : s.retire.di = s.di := by
  simp [State.retire]
@[simp] theorem State.retire_wb (s : State) : s.retire.wb = s.wb := by
  simp [State.retire]
@[simp] theorem State.retire_exl (s : State) : s.retire.exl = s.exl := by
  simp [State.retire]
@[simp] theorem State.retire_tail (s : State) : s.retire.tail = s.tail := by
  simp [State.retire]
@[simp] theorem State.retire_iq (s : State) : s.retire.iq = s.iq := by
  simp [State.retire]
@[simp] theorem State.retire_trace (s : State) : s.retire.trace = s.trace := by
  simp [State.retire]

/-! `State.execute` -/

@[simp] theorem State.execute_cfg (s : State) : s.execute.cfg = s.cfg := by
  simp [State.execute]
@[simp] theorem State.execute_cycle (s : State) : s.execute.cycle = s.cycle := by
  simp [State.execute]
@[simp] theorem State.execute_seqNext (s : State) : s.execute.seqNext = s.seqNext := by
  simp [State.execute]
@[simp] theorem State.execute_traceDone (s : State) : s.execute.traceDone = s.traceDone := by
  simp [State.execute]
@[simp] theorem State.execute_de (s : State) : s.execute.de = s.de := by
  simp [State.execute]
@[simp] theorem State.execute_rn (s : State) : s.execute.rn = s.rn := by
  simp [State.execute]
@[simp] theorem State.execute_rob (s : State) : s.execute.rob = s.rob := by
  simp [State.execute]
@[simp] theorem State.execute_head (s : State) : s.execute.head = s.head := by
  simp [State.execute]
@[simp] theorem State.execute_tail (s : State) : s.execute.tail = s.tail := by
  simp [State.execute]
@[simp] theorem State.execute_rmt (s : State) : s.execute.rmt = s.rmt := by
  simp [State.execute]
@[simp] theorem State.execute_out (s : State) : s.execute.out = s.out := by
  simp [State.execute]
@[simp] theorem State.execute_trace (s : State) : s.execute.trace = s.trace := by
  simp [State.execute]

/-! `State.issue` -/

@[simp] theorem State.issue_cfg (s : State) : s.issue.cfg = s.cfg := by
  unfold State.issue; split <;> simp
@[simp] theorem State.issue_cycle (s : State) : s.issue.cycle = s.cycle := by
  unfold State.issue; split <;> simp
@[simp] theorem State.issue_seqNext (s : State) : s.issue.seqNext = s.seqNext := by
  unfold State.issue; split <;> simp
@[simp] theorem State.issue_traceDone (s : State) : s.issue.traceDone = s.traceDone := by
  unfold State.issue; split <;> simp
@[simp] theorem State.issue_de (s : State) : s.issue.de = s.de := by
  unfold State.issue; split <;> simp
@[simp] theorem State.issue_rn (s : State) : s.issue.rn = s.rn := by
  unfold State.issue; split <;> simp
@[simp] theorem State.issue_rr (s : State) : s.issue.rr = s.rr := by
  unfold State.issue; split <;> simp
@[simp] theorem State.issue_di (s : State) : s.issue.di = s.di := by
  unfold State.issue; split <;> simp
@[simp] theorem State.issue_wb (s : State) : s.issue.wb = s.wb := by
  unfold State.issue; split <;> simp
@[simp] theorem State.issue_rob (s : State) : s.issue.rob = s.rob := by
  unfold State.issue; split <;> simp
@[simp] theorem State.issue_head (s : State) : s.issue.head = s.head := by
  unfold State.issue; split <;> simp
@[simp] theorem State.issue_tail (s : State) : s.issue.tail = s.tail := by
  unfold State.issue; split <;> simp
@[simp] theorem State.issue_rmt (s : State) : s.issue.rmt = s.rmt := by
  unfold State.issue; split <;> simp
@[simp] theorem State.issue_out (s : State) : s.issue.out = s.out := by
  unfold State.issue; split <;> simp
@[simp] theorem State.issue_trace (s : State) : s.issue.trace = s.trace := by
  unfold State.issue; split <;> simp

/-! `State.dispatch` -/

@[simp] theorem State.dispatch_cfg (s : State) : s.dispatch.cfg = s.cfg := by
  unfold State.dispatch; split <;> simp
@[simp] theorem State.dispatch_cycle (s : State) : s.dispatch.cycle = s.cycle := by
  unfold State.dispatch; split <;> simp
@[simp] theorem State.dispatch_seqNext (s : State) : s.dispatch.seqNext = s.seqNext := by
  unfold State.dispatch; split <;> simp
@[simp] theorem State.dispatch_traceDone (s : State) : s.dispatch.traceDone = s.traceDone := by
  unfold State.dispatch; split <;> simp
@[simp] theorem State.dispatch_de (s : State) : s.dispatch.de = s.de := by
  unfold State.dispatch; split <;> simp
@[simp] theorem State.dispatch_rn (s : State) : s.dispatch.rn = s.rn := by
  unfold State.dispatch; split <;> simp
@[simp] theorem State.dispatch_rr (s : State) : s.dispatch.rr = s.rr := by
  unfold State.dispatch; split <;> simp
@[simp] theorem State.dispatch_wb (s : State) : s.dispatch.wb = s.wb := by
  unfold State.dispatch; split <;> simp
@[simp] theorem State.dispatch_exl (s : State) : s.dispatch.exl = s.exl := by
  unfold State.dispatch; split <;> simp
@[simp] theorem State.dispatch_rob (s : State) : s.dispatch.rob = s.rob := by
  unfold State.dispatch; split <;> simp
@[simp] theorem State.dispatch_head (s : State) : s.dispatch.head = s.head := by
  unfold State.dispatch; split <;> simp
@[simp] theorem State.dispatch_tail (s : State) : s.dispatch.tail = s.tail := by
  unfold State.dispatch; split <;> simp
@[simp] theorem State.dispatch_rmt (s : State) : s.dispatch.rmt = s.rmt := by
  unfold State.dispatch; split <;> simp
@[simp] theorem State.dispatch_out (s : State) : s.dispatch.out = s.out := by
  unfold State.dispatch; split <;> simp
@[simp] theorem State.dispatch_trace (s : State) : s.dispatch.trace = s.trace := by
  unfold State.dispatch; split <;> simp

/-! `State.rename` -/

@[simp] theorem State.rename_cfg (s : State) : s.rename.cfg = s.cfg := by
  unfold State.rename; split <;> simp
@[simp] theorem State.rename_cycle (s : State) : s.rename.cycle = s.cycle := by
  unfold State.rename; split <;> simp
@[simp] theorem State.rename_seqNext (s : State) : s.rename.seqNext = s.seqNext := by
  unfold State.rename; split <;> simp
@[simp] theorem State.rename_traceDone (s : State) : s.rename.traceDone = s.traceDone := by
  unfold State.rename; split <;> simp
@[simp] theorem State.rename_de (s : State) : s.rename.de = s.de := by
  unfold State.rename; split <;> simp
@[simp] theorem State.rename_di (s : State) : s.rename.di = s.di := by
  unfold State.rename; split <;> simp
@[simp] theorem State.rename_wb (s : State) : s.rename.wb = s.wb := by
  unfold State.rename; split <;> simp
@[simp] theorem State.rename_exl (s : State) : s.rename.exl = s.exl := by
  unfold State.rename; split <;> simp
@[simp] theorem State.rename_head (s : State) : s.rename.head = s.head := by
  unfold State.rename; split <;> simp
@[simp] theorem State.rename_iq (s : State) : s.rename.iq = s.iq := by
  unfold State.rename; split <;> simp
@[simp] theorem State.rename_out (s : State) : s.rename.out = s.out := by
  unfold State.rename; split <;> simp
@[simp] theorem State.rename_trace (s : State) : s.rename.trace = s.trace := by
  unfold State.rename; split <;> simp

/-! The eight stages together: what no stage but Fetch and the driver writes. -/

@[simp] theorem State.stages_cfg (s : State) : s.stages.cfg = s.cfg := by
  simp [State.stages]
@[simp] theorem State.stages_cycle (s : State) : s.stages.cycle = s.cycle := by
  simp [State.stages]
@[simp] theorem State.stages_seqNext (s : State) : s.stages.seqNext = s.seqNext := by
  simp [State.stages]
@[simp] theorem State.stages_traceDone (s : State) : s.stages.traceDone = s.traceDone := by
  simp [State.stages]
@[simp] theorem State.stages_trace (s : State) : s.stages.trace = s.trace := by
  simp [State.stages]

end Sys2Proof.Machine
end

