-- ==== Sys2Proof/Laws/Ops.lean ====
section
/-!
SUPPORT. For each shared operation one lemma that says what it can do, so that later proofs cite it and do not unfold the
operation: the moves of a stage, the RMT, tags, the ROB pointer, Fetch, the tick and the step.
-/

namespace Sys2Proof.Machine

/-! Buffers -/

@[simp] theorem stampAll_length (b : List InsRec) (st : Stage) (c : Nat) : (stampAll b st c).length = b.length := by
  simp [stampAll]

/-- The moves "while B has room" (rules R116, R126, R139): as many records move as there is room for, oldest first. -/
theorem moveWhile_eq (cap : Nat) (f : InsRec → InsRec) (b dst : List InsRec) :
    moveWhile cap f b dst = (b.drop (cap - dst.length), dst ++ (b.take (cap - dst.length)).map f) := by
  induction b generalizing dst with
  | nil => simp [moveWhile]
  | cons i b ih =>
    simp only [moveWhile]
    split
    · rename_i h
      rw [ih]
      obtain ⟨k, hk⟩ : ∃ k, cap - dst.length = k + 1 := ⟨cap - dst.length - 1, by omega⟩
      have hk' : cap - (dst ++ [f i]).length = k := by simp; omega
      rw [hk', hk]
      simp
    · rename_i h
      have hz : cap - dst.length = 0 := by omega
      simp [hz]

/-! The Rename Map Table -/

/-- The source lookup (rule R133). -/
theorem sourceTag_eq_some {rmt : Vector RmtEntry numArf} {src : RegField} {t : Nat} :
    sourceTag rmt src = some t ↔ ∃ r, src = some r ∧ rmt[r].valid = true ∧ rmt[r].robTag = t := by
  cases src with
  | none => simp [sourceTag]
  | some r => simp [sourceTag]

/-- The destination mapping (rule R134). -/
theorem mapDest_get (rmt : Vector RmtEntry numArf) (dst : RegField) (t : Nat) (r : ArfIndex) :
    (mapDest rmt dst t)[r] = if dst = some r then { valid := true, robTag := t } else rmt[r] := by
  cases dst with
  | none => simp [mapDest]
  | some d =>
    simp only [mapDest, Fin.getElem_fin, Vector.getElem_set, Option.some.injEq, Fin.ext_iff]

/-- The conditional clear (rule R177). -/
theorem clearDest_get (rmt : Vector RmtEntry numArf) (dst : RegField) (h : Nat) (r : ArfIndex) :
    (clearDest rmt dst h)[r] =
      if dst = some r ∧ rmt[r].valid = true ∧ rmt[r].robTag = h then { rmt[r] with valid := false } else rmt[r] := by
  cases dst with
  | none => simp [clearDest]
  | some d =>
    simp only [clearDest, Option.some.injEq]
    by_cases hd : d = r
    · subst hd
      split <;> rename_i hc <;> simp only [Fin.getElem_fin] at hc ⊢
      · simp [hc]
      · exact (if_neg (fun e => hc e.2)).symm
    · have hne : (d : Nat) ≠ (r : Nat) := fun e => hd (Fin.ext e)
      split <;> simp [hd, hne]

/-! Tags -/

/-- The snap of one tag (rule R140). -/
theorem snapTag_eq_some {rob : List RobSlot} {t : Option Nat} {k : Nat} :
    snapTag rob t = some k ↔ t = some k ∧ robReady rob k = false := by
  cases t with
  | none => simp [snapTag]
  | some j =>
    simp only [snapTag]
    split
    · rename_i h
      constructor
      · intro e
        cases e
      · rintro ⟨e, hf⟩
        cases e
        simp [h] at hf
    · rename_i h
      constructor
      · intro e
        cases e
        exact ⟨rfl, by simpa using h⟩
      · rintro ⟨e, -⟩
        exact e

/-- One tag under a broadcast (rule R160). -/
theorem wakeTag_eq_some {t src : Option Nat} {k : Nat} : wakeTag t src = some k ↔ src = some k ∧ t ≠ some k := by
  unfold wakeTag
  split
  · rename_i h
    subst h
    constructor
    · intro e
      cases e
    · rintro ⟨e, hn⟩
      exact absurd e hn
  · rename_i h
    constructor
    · intro e
      exact ⟨e, fun ht => h (by rw [e, ht])⟩
    · exact fun e => e.1

/-! Pointers -/

/-- A ROB pointer stays a ROB index (rules R31, R62). -/
theorem robSucc_lt (c : Config) (p : Nat) (h : 0 < c.robSize) : robSucc c p < c.robSize := Nat.mod_lt _ h

/-! Outcomes -/

theorem andThen_next {o : Host.Outcome State Fault Refusal} {f : State → Host.Outcome State Fault Refusal} {t : State} :
    andThen o f = .next t ↔ ∃ u, o = .next u ∧ f u = .next t := by
  cases o <;> simp [andThen]

/-! Fetch, the tick and the step -/

/-- The meaning of every instruction is the entry of its record into DE (rules R87, R121). -/
theorem exec_eq (i : Instr) (s : State) : exec i s = .next (s.fetchOne i.op i.pc i.dst i.src1 i.src2) := by
  cases i <;> rfl

/-- One round of Fetch's loop that goes on to a next state: no room, or end of stream, or one record delivered and the
rest of the loop (rules R120, R121). -/
theorem fetchLoop_succ_cases {n : Nat} {s t : State} (h : fetchLoop (n + 1) s = .next t) :
    (s.room s.de = false ∧ t = s) ∨
    (s.room s.de = true ∧ traceAnswer s.trace = .endOfStream ∧ t = s.latchEnd) ∨
    (s.room s.de = true ∧ ∃ i, traceAnswer s.trace = .instr i ∧
      fetchLoop n (s.consume.fetchOne i.op i.pc i.dst i.src1 i.src2) = .next t) := by
  simp only [fetchLoop] at h
  split at h
  · rename_i hr
    split at h
    · rename_i i hi
      rw [exec_eq] at h
      exact .inr (.inr ⟨hr, i, hi, h⟩)
    · rename_i hi
      exact .inr (.inl ⟨hr, hi, by simpa using h.symm⟩)
    · cases h
    · cases h
  · rename_i hr
    exact .inl ⟨by simpa using hr, by simpa using h.symm⟩

/-- Fetch that goes on to a next state (rule R120). -/
theorem fetch_cases {s t : State} (h : fetch s = .next t) :
    (s.traceDone = true ∧ t = s) ∨ (s.traceDone = false ∧ fetchLoop s.cfg.width s = .next t) := by
  simp only [fetch] at h
  split at h
  · rename_i hd
    exact .inl ⟨hd, by simpa using h.symm⟩
  · rename_i hd
    exact .inr ⟨by simpa using hd, h⟩

/-- Everything a step can do where it answers a next state: the driver has stopped and nothing changes, or the eight stages
run, then Fetch, then `cycle + 1` (rules R110 to R112). -/
theorem step_cases {s t : State} (h : step s = .next t) :
    s.cfg.wellFormed = true ∧
      ((s.continues = false ∧ t = s) ∨ (s.continues = true ∧ ∃ u, fetch s.stages = .next u ∧ t = u.advance)) := by
  simp only [step, driverStep] at h
  split at h
  · rename_i hc
    refine ⟨hc, ?_⟩
    split at h
    · rename_i hk
      obtain ⟨u, hu, e⟩ := andThen_next.mp h
      exact .inr ⟨hk, u, hu, by simpa using e.symm⟩
    · rename_i hk
      exact .inl ⟨by simpa using hk, by simpa using h.symm⟩
  · cases h

end Sys2Proof.Machine
end

