-- ==== Sys2Proof/Laws/PerInstr.lean ====
section
/-!
SUPPORT. Statements about every instruction as it is written, one lemma per constructor of `Instr`.
-/

namespace Sys2Proof.Laws.FieldsInDomain

/-- The five fields of the instruction lie in their domains (rule R80), and the fields alone give the instruction back (rules
R81 to R83). -/
def Statement (i : Instr) : Prop := i.wellFormed = true ∧ Instr.ofRaw i.toRaw = some i

theorem op0 (pc : Pc) (dst src1 src2 : RegField) : Statement (.op0 pc dst src1 src2) :=
  ⟨RawRecord.wellFormed_ofFields .t0 pc dst src1 src2, Instr.ofRaw_ofFields .t0 pc dst src1 src2⟩

theorem op1 (pc : Pc) (dst src1 src2 : RegField) : Statement (.op1 pc dst src1 src2) :=
  ⟨RawRecord.wellFormed_ofFields .t1 pc dst src1 src2, Instr.ofRaw_ofFields .t1 pc dst src1 src2⟩

theorem op2 (pc : Pc) (dst src1 src2 : RegField) : Statement (.op2 pc dst src1 src2) :=
  ⟨RawRecord.wellFormed_ofFields .t2 pc dst src1 src2, Instr.ofRaw_ofFields .t2 pc dst src1 src2⟩

end Sys2Proof.Laws.FieldsInDomain
end

