-- ==== Sys2Proof/Laws/Safety.lean ====
section
/-!
SUPPORT. The small lemmas of the definitions of Safety.lean: membership in the lists of records in flight, the tag the RMT gives a
register field, and runs cut in two.
-/

namespace Sys2Proof.Machine

/-- Where an unfinished record stands. -/
theorem mem_unfinished {s : State} {i : InsRec} :
    i ∈ s.unfinished ↔ i ∈ s.rr ∨ i ∈ s.di ∨ (∃ x ∈ s.iq, x.valid = true ∧ x.ins = i) ∨ ∃ e ∈ s.exl, e.ins = i := by
  simp [State.unfinished, and_assoc]

/-- A record on its way to Writeback is unfinished or in WB. -/
theorem mem_travelling {s : State} {i : InsRec} : i ∈ s.travelling ↔ i ∈ s.unfinished ∨ i ∈ s.wb := by
  simp [State.travelling]

theorem SameIdentity.refl (i : InsRec) : SameIdentity i i := ⟨rfl, rfl, rfl, rfl, rfl, rfl⟩

/-- No register, no tag. -/
@[simp] theorem producerTag_none (s : State) (l : List InsRec) : s.producerTag l none = none := rfl

/-- With nothing renamed the tag is the one the RMT gives (rule R133). -/
@[simp] theorem producerTag_nil (s : State) (f : RegField) : s.producerTag [] f = sourceTag s.rmt f := by
  cases f <;> rfl

/-- A record renamed last that writes the register is its producer, one that does not changes nothing. -/
theorem producerTag_append (s : State) (l : List InsRec) (i : InsRec) (r : ArfIndex) :
    s.producerTag (l ++ [i]) (some r) =
      if i.dst = some r then some ((s.tail + l.length) % s.cfg.robSize) else s.producerTag l (some r) := by
  by_cases h : i.dst = some r <;> simp [State.producerTag, List.zipIdx_append, List.filter_append, h]

/-- A run of `m + n` steps is a run of `m` steps and then one of `n`. -/
theorem run_add (m n : Nat) (s : State) : run (m + n) s = andThen (run m s) (run n) := by
  induction m generalizing s with
  | zero => simp [run, andThen]
  | succ m ih =>
    rw [Nat.add_right_comm]
    simp only [run]
    cases step s with
    | next t => exact ih t
    | fault r => rfl
    | refused r => rfl

end Sys2Proof.Machine
end

