-- ==== Sys2Proof/Tests/Slice0.lean ====
section
/-!
SUPPORT. The model's own tests: the checks of WellFormed refuse ill-formed terms, lines written out from rule R80 decode to the
instructions they stand for, each stage gives the values the spec's vectors give for it, and for every statement of
Certificates/Slice0/Obligations.lean that has hypotheses a concrete witness that meets them.
-/

namespace Sys2Proof.Tests

open Sys2Proof Sys2Proof.Machine

/-! ## Helpers -/

/-- Does the outcome go on? -/
def isNext (o : Host.Outcome State Fault Refusal) : Bool :=
  match o with
  | .next _ => true
  | .fault _ => false
  | .refused _ => false

/-- The refusal, where the outcome is one. -/
def refusalOf (o : Host.Outcome State Fault Refusal) : Option Refusal :=
  match o with
  | .next _ => none
  | .fault _ => none
  | .refused r => some r

/-- The outcome goes on to a state that passes a check. -/
def nextHas (o : Host.Outcome State Fault Refusal) (p : State → Bool) : Bool :=
  match o with
  | .next s => p s
  | .fault _ => false
  | .refused _ => false

theorem exists_next {o : Host.Outcome State Fault Refusal} (h : isNext o = true) : ∃ t, o = .next t := by
  cases o with
  | next t => exact ⟨t, rfl⟩
  | fault r => cases h
  | refused r => cases h

theorem exists_nextHas {o : Host.Outcome State Fault Refusal} {p : State → Bool} (h : nextHas o p = true) :
    ∃ t, o = .next t ∧ p t = true := by
  cases o with
  | next t => exact ⟨t, rfl, h⟩
  | fault r => cases h
  | refused r => cases h

/-- The line `0 <t> 1 2 3` of vector V1. -/
def lineV1 (t : Byte) : TraceLine := [48, 32, t, 32, 49, 32, 50, 32, 51]

/-- A configuration for small states. -/
def cfg2 : Config where
  robSize := 2
  iqSize := 2
  width := 2

/-- The state before tick 0 with two lines in the trace. -/
def two : State := State.start cfg2 [lineV1 48, lineV1 49]

/-- A record of class `t` that writes register 1, with sequence number `n`, fetched in cycle 0. -/
def rec1 (t : OpType) (n : Nat) : InsRec := InsRec.create t 0 (some 1) (some 2) (some 3) n 0

/-- The record of scenario S1 as it waits at stage `st` with every earlier stage passed without a stall. -/
def s1At (st : Stage) : InsRec :=
  [Stage.fe, .de, .rn, .rr, .di, .is, .ex, .wb, .rt].foldl
    (fun i q => if q.place < st.place then (i.stamp q q.place).leave q q.place else i) { rec1 .t0 0 with dstTag := some 0 }

/-- A state in cycle 6 where the entry in EXL is in its last cycle and two IQ entries wait for its tag 0. -/
def waking : State :=
  { State.start cfg2 [] with
    cycle := 6
    exl := [{ ins := { rec1 .t0 0 with dstTag := some 0 }, rem := 1 }]
    iq := [{ valid := true, ins := { rec1 .t0 1 with src1Tag := some 0 } },
      { valid := true, ins := { rec1 .t0 2 with src1Tag := some 0, src2Tag := some 0 } }] }

/-- A state in cycle 8 whose ROB holds a ready instruction at `head` and a younger one that is not ready. -/
def retiring : State :=
  { State.start cfg2 [] with
    cycle := 8
    seqNext := 2
    rob := [{ valid := true, ready := true, ins := s1At .rt, dstArf := some 1 },
      { valid := true, ready := false, ins := rec1 .t0 1, dstArf := some 1 }]
    rmt := (Vector.replicate numArf RmtEntry.free).set 1 { valid := true, robTag := 0 } }

/-- `0 2 1 2 3`, then `0 0 2 1 3`, which reads register 1. -/
def dependent : List TraceLine := [lineV1 50, [48, 32, 48, 32, 50, 32, 49, 32, 51]]

/-- The record of a member of the one fetch group of `dependent`, waiting at stage `st`. -/
def member (t : OpType) (dst src1 : ArfIndex) (n : Nat) (st : Stage) : InsRec :=
  { s1At st with op := t, dst := some dst, src1 := some src1, seq := n, dstTag := none }

/-- The producer, in its first cycle of execution. -/
def producer : InsRec := { (member .t2 1 2 0 .ex).stamp .ex 6 with dstTag := some 0 }

/-- The consumer, in the IQ, waiting for slot 0. -/
def consumer : InsRec := { (member .t0 2 1 1 .is).stamp .is 5 with dstTag := some 1, src1Tag := some 0 }

/-- The state before tick 7 of the run of `dependent`: the producer executes, the consumer waits. -/
def mid : State :=
  { State.start cfg2 [] with
    cycle := 7
    seqNext := 2
    traceDone := true
    exl := [{ ins := producer, rem := 4 }]
    iq := [{ valid := false, ins := { (member .t2 1 2 0 .is).stamp .is 5 with dstTag := some 0 } }, { valid := true, ins := consumer }]
    rob := [{ valid := true, ready := false, ins := (member .t2 1 2 0 .rn).stamp .rn 2, dstArf := some 1 },
      { valid := true, ready := false, ins := (member .t0 2 1 1 .rn).stamp .rn 2, dstArf := some 2 }]
    rmt := ((Vector.replicate numArf RmtEntry.free).set 1 { valid := true, robTag := 0 }).set 2 { valid := true, robTag := 1 } }

/-! ## WellFormed refuses what is ill formed -/

theorem test_smoke_pc : RawRecord.wellFormed ⟨2 ^ 64, 0, 1, 2, 3⟩ = false := by decide
theorem test_smoke_opType : RawRecord.wellFormed ⟨0, 3, 1, 2, 3⟩ = false := by decide
theorem test_smoke_destReg : RawRecord.wellFormed ⟨0, 0, 67, 2, 3⟩ = false := by decide
theorem test_smoke_src1Reg : RawRecord.wellFormed ⟨0, 0, 1, -2, 3⟩ = false := by decide
theorem test_smoke_src2Reg : RawRecord.wellFormed ⟨0, 0, 1, 2, 67⟩ = false := by decide
theorem test_smoke_boundary : RawRecord.wellFormed ⟨2 ^ 64 - 1, 2, -1, 66, 0⟩ = true := by decide
theorem test_smoke_robSize : Config.wellFormed ⟨0, 1, 1⟩ = false := by decide
theorem test_smoke_iqSize : Config.wellFormed ⟨1, 0, 1⟩ = false := by decide
theorem test_smoke_width : Config.wellFormed ⟨1, 1, 0⟩ = false := by decide
theorem test_smoke_live : Config.live ⟨1, 4, 2⟩ = false ∧ Config.live ⟨4, 1, 2⟩ = false := by decide

/-! ## Lines written out from rules R80 and R86, vector V15 -/

/-- `0 0 1 2 3` (rule R86, scenario S1). -/
theorem test_decode_op0 : decodeLine (lineV1 48) = .instr (.op0 0 (some 1) (some 2) (some 3)) := by decide
/-- `0 1 1 2 3` (vector V1). -/
theorem test_decode_op1 : decodeLine (lineV1 49) = .instr (.op1 0 (some 1) (some 2) (some 3)) := by decide
/-- `1c 2 -1 66 0` (vector V15). -/
theorem test_decode_op2 :
    decodeLine [49, 99, 32, 50, 32, 45, 49, 32, 54, 54, 32, 48] = .instr (.op2 28 none (some 66) (some 0)) := by
  decide
/-- `ffffffffffffffff 1 0 -1 -1` (vector V15). -/
theorem test_decode_pc_max :
    decodeLine (List.replicate 16 102 ++ [32, 49, 32, 48, 32, 45, 49, 32, 45, 49]) =
      .instr (.op1 (BitVec.allOnes 64) (some 0) none none) := by decide
/-- `4 0 2 -1`: four fields (vector V15). -/
theorem test_decode_short : decodeLine [52, 32, 48, 32, 50, 32, 45, 49] = .endOfStream := by decide
/-- `4 3 1 -1 -1`: op 3 (vector V15). -/
theorem test_decode_op3 : decodeLine [52, 32, 51, 32, 49, 32, 45, 49, 32, 45, 49] = .outOfDomain := by decide
/-- `0 0 67 2 3`: a register name above 66 (rule R85). -/
theorem test_decode_reg67 : decodeLine [48, 32, 48, 32, 54, 55, 32, 50, 32, 51] = .outOfDomain := by decide
/-- `0 0 1 2 3 4`: a sixth field (log 8). -/
theorem test_decode_six : decodeLine (lineV1 48 ++ [32, 52]) = .surplusFields := by decide
/-- The encoder writes the document's own line (scenario S1). -/
theorem test_encode_s1 : encode (.op0 0 (some 1) (some 2) (some 3)) = lineV1 48 := by decide
/-- The line `0 2 1 2 3` as one number, its first character in bits 7..0 (log 1). -/
theorem test_tableWord_op2 : decodeTableWord 72 0x332032203120322030 = some (.op2 0 (some 1) (some 2) (some 3)) := by
  decide
/-- The decoder refuses nothing silently: a word of 0 is no record. -/
theorem test_tableWord_zero : decodeTableWord 8 0 = none := by decide

/-! ## One step, or one operation of a step, with the values of the spec's vectors -/

/-- The word of an instruction, placed at the trace port after reset, is fetched by the next step (scenario S1, tick 0). -/
theorem test_step_op0 : nextHas (step (State.reset.withFetchWord 72 0x332032203120302030)) (fun t =>
    decide (t.de = [rec1 .t0 0] ∧ t.cycle = 1 ∧ t.seqNext = 1 ∧ t.traceDone = false)) = true := by decide
theorem test_step_op1 : nextHas (step (State.reset.withFetchWord 72 0x332032203120312030)) (fun t =>
    decide (t.de = [rec1 .t1 0])) = true := by decide
theorem test_step_op2 : nextHas (step (State.reset.withFetchWord 72 0x332032203120322030)) (fun t =>
    decide (t.de = [rec1 .t2 0])) = true := by decide
/-- Two records in one tick at width 2, then the end is not yet seen (vector V4). -/
theorem test_step_group : nextHas (step two) (fun t =>
    decide (t.de = [rec1 .t0 0, rec1 .t1 1] ∧ t.traceDone = false)) = true := by decide
/-- An out-of-domain record is refused at the port (rule R85). -/
theorem test_step_refused : refusalOf (step (State.start cfg2 [[52, 32, 51, 32, 49, 32, 45, 49, 32, 45, 49]])) =
    some .outOfDomainRecord := by decide
/-- Issue: `rem` is 1, 2 and 5 (rule R154). -/
theorem test_issue_latency : ((({ State.start ⟨4, 4, 3⟩ [] with
    iq := [⟨true, rec1 .t2 0⟩, ⟨true, rec1 .t0 1⟩, ⟨true, rec1 .t1 2⟩, IqSlot.free] } : State).issue).exl.map fun (e : ExlEntry) => e.rem) = [5, 1, 2] := by
  decide
/-- Issue takes the oldest fetch cycle first, then the lowest index (rule R152, vector V12). -/
theorem test_issue_order : ((({ State.start ⟨4, 3, 2⟩ [] with
    iq := [⟨true, InsRec.create .t0 0 none none none 2 1⟩, ⟨true, InsRec.create .t0 0 none none none 1 0⟩,
      ⟨true, InsRec.create .t0 0 none none none 3 1⟩] } : State).issue).exl.map fun (e : ExlEntry) => e.ins.seq) = [1, 2] := by decide
/-- Both waiting entries are ready after Execute of the tick, and Issue takes both (rule R163). -/
theorem test_wakeup_same_tick : waking.execute.issue.exl.map (·.ins.seq) = [1, 2] := by decide
/-- Rename looks a source up before it maps the destination (rule R107): an instruction does not wait for itself. -/
theorem test_rename_self : ((({ State.start cfg2 [] with
    rn := [InsRec.create .t0 0 (some 1) (some 1) none 0 0, InsRec.create .t0 0 none (some 1) (some 1) 1 0] } : State).rename).rr.map
      fun (i : InsRec) => (i.dstTag, i.src1Tag, i.src2Tag)) = [(some 0, none, none), (some 1, some 0, some 0)] := by decide
/-- The snap reads a stale `ready` of a freed slot (rule R179, vector V8). -/
theorem test_snap_stale : (({ rec1 .t0 0 with src1Tag := some 0 }).snap [{ RobSlot.free with ready := true }]).src1Tag = none := by
  decide
/-- Retirement of S1: `RT{8,1}`, the mapping of register 1 cleared, `ready` kept (rules R176, R179). -/
theorem test_retire_s1 : (retiring.retire.out.map (fun r => (r.seq, r.times.rt)), retiring.retire.head, retiring.retire.rmt[1].valid,
    retiring.retire.rob.map fun x => (x.valid, x.ready)) =
      ([(0, ⟨some 8, 1⟩)], 1, false, [(false, true), (true, false)]) := by decide
/-- The driver stops after an empty trace's one tick, and CYCLES is 1 (vector V3). -/
theorem test_empty_trace : nextHas (step State.reset) (fun t => t.done && t.cycle == 1) = true := by decide
/-- The record scenario S1 emits. -/
def s1Timing : TimingRecord := ((s1At .rt).stamp .rt 8 |>.leave .rt 8).timing

/-- Rule R91's line for S1: its first 31 characters (`0 fu`, the sources, the destination, `FE`), its last and its length. -/
theorem test_line_s1 : s1Timing.line.length = 95 ∧ s1Timing.line.take 31 =
      [48, 32, 102, 117, 123, 48, 125, 32, 115, 114, 99, 123, 50, 44, 51, 125, 32, 100, 115, 116, 123, 49, 125, 32, 70, 69, 123, 48, 44, 49, 125] ∧
    s1Timing.line.drop 80 = [87, 66, 123, 55, 44, 49, 125, 32, 82, 84, 123, 56, 44, 49, 125] := by
  decide

/-! ## Witnesses: for each statement with hypotheses, data that meets them all -/

theorem test_witness_DecodedLineHasItsFields : ∃ line i, decodeLine line = .instr i := ⟨_, _, test_decode_op2⟩

/-- Register 67 and register 66, the two sides of the domain's end. -/
theorem test_witness_OutOfDomainIsRefused :
    (∃ line f1 f2 f3 f4 f5 r, splitFields line [] = [f1, f2, f3, f4, f5] ∧ parseFive f1 f2 f3 f4 f5 = some r ∧
      r.wellFormed = false) ∧
    (∃ line f1 f2 f3 f4 f5 r, splitFields line [] = [f1, f2, f3, f4, f5] ∧ parseFive f1 f2 f3 f4 f5 = some r ∧
      r.wellFormed = true) :=
  ⟨⟨[48, 32, 48, 32, 54, 55, 32, 50, 32, 51], [48], [48], [54, 55], [50], [51], ⟨0, 0, 67, 2, 3⟩, by decide⟩,
    ⟨[48, 32, 48, 32, 54, 54, 32, 50, 32, 51], [48], [48], [54, 54], [50], [51], ⟨0, 0, 66, 2, 3⟩, by decide⟩⟩

/-- A line of four fields, and a line of five whose second is no number. -/
theorem test_witness_ShortLineEndsStream :
    (splitFields [52, 32, 48, 32, 50, 32, 45, 49] []).length < 5 ∧
    (∃ f1 f2 f3 f4 f5 more, splitFields [48, 32, 120, 32, 49, 32, 50, 32, 51] [] = f1 :: f2 :: f3 :: f4 :: f5 :: more ∧
      parseFive f1 f2 f3 f4 f5 = none) ∧
    two.cfg.wellFormed = true ∧ two.traceDone = false ∧ two.room two.de = true :=
  ⟨by decide, ⟨[48], [120], [49], [50], [51], [], by decide⟩, by decide⟩

theorem test_witness_EachClassEntersDecodeBuffer : two.traceDone = false ∧ two.de.length < two.cfg.width := by decide

/-- The latch set, and DE exactly full. -/
theorem test_witness_EachClassWaitsAtFullBuffer :
    ({ two with traceDone := true }).traceDone = true ∧
    ({ two with de := [rec1 .t0 0, rec1 .t0 1] }).cfg.width ≤ ({ two with de := [rec1 .t0 0, rec1 .t0 1] }).de.length := by
  decide

theorem test_witness_EachClassFrame : ∃ t, exec (.op2 0 none none none) two = .next t := exists_next (by decide)

theorem test_witness_StepRunsDecodedInstruction :
    two.cfg.wellFormed = true ∧ two.traceDone = false ∧ two.trace = lineV1 48 :: [lineV1 49] ∧
    decodeLine (lineV1 48) = .instr (.op0 0 (some 1) (some 2) (some 3)) ∧ two.stages.de.length < two.cfg.width := by
  decide

theorem test_witness_PlacedLineRunsNext : State.reset.cfg.wellFormed = true := by decide

theorem test_witness_CycleAdvancesOncePerTick : (∃ t, step two = .next t) ∧ two.continues = true ∧ (∃ t, fetch two = .next t) :=
  ⟨exists_next (by decide), by decide, exists_next (by decide)⟩

/-- The end seen at the second read of a tick (its last), and a state with the latch set that steps. -/
theorem test_witness_EndOfStreamLatch :
    (∃ t, fetch (State.start cfg2 [lineV1 48]) = .next t ∧ t.traceDone = true) ∧
    (∃ t, fetch two = .next t ∧ t.traceDone = false) ∧
    (∃ t, step { two with traceDone := true, de := [rec1 .t0 0] } = .next t) := by
  refine ⟨?_, ?_, exists_next (by decide)⟩
  · exact exists_nextHas (p := fun t => t.traceDone) (by decide)
  · obtain ⟨t, h, e⟩ := exists_nextHas (o := fetch two) (p := fun t => !t.traceDone) (by decide)
    exact ⟨t, h, by simpa using e⟩

theorem test_witness_ConfigurationIsConstant : ∃ t, step two = .next t := exists_next (by decide)

theorem test_witness_OutputIsNeverRead : ∃ t, step retiring = .next t ∧ (t.out.length == 1) = true :=
  exists_nextHas (p := fun t => t.out.length == 1) (by decide)

theorem test_witness_InDomainStepSucceeds : two.cfg.wellFormed = true ∧ ∀ line ∈ two.trace, lineInDomain line = true := by
  decide

/-- One state for each refusal. -/
theorem test_witness_RefusalsHaveTheirReason :
    refusalOf (step (State.start ⟨0, 1, 1⟩ [])) = some .zeroParameter ∧
    refusalOf (step (State.start cfg2 [[52, 32, 51, 32, 49, 32, 45, 49, 32, 45, 49]])) = some .outOfDomainRecord ∧
    refusalOf (step (State.start cfg2 [lineV1 48 ++ [32, 52]])) = some .surplusFields := by decide

/-- A trace whose second record has operation type 3. -/
def badSecond : State := State.start cfg2 [lineV1 48, lineV1 51]

/-- An out-of-domain record at the last place Fetch reaches in a tick is refused, one place further it is not met. -/
theorem test_witness_RefusalsHaveTheirReason_boundary :
    badSecond.cfg.wellFormed = true ∧ badSecond.traceDone = false ∧ badSecond.stages.de.length + 1 < badSecond.cfg.width ∧
    (∀ j, j < 1 → ∃ l i, badSecond.trace[j]? = some l ∧ decodeLine l = .instr i) ∧
    badSecond.trace[1]? = some (lineV1 51) ∧ decodeLine (lineV1 51) = .outOfDomain ∧
    isNext (step (State.start cfg2 [lineV1 48, lineV1 48, lineV1 51])) = true := by
  refine ⟨by decide, by decide, by decide, ?_, by decide, by decide, by decide⟩
  intro j hj
  cases Nat.lt_one_iff.mp hj
  exact ⟨_, _, rfl, test_decode_op0⟩

theorem test_witness_StoppedEngineStays :
    ({ two with traceDone := true }).cfg.wellFormed = true ∧ ({ two with traceDone := true }).done = true := by decide

theorem test_witness_EmptyTraceTakesOneTick : cfg2.wellFormed = true := by decide

/-- A group cut short by the end of the stream, and a full one. -/
theorem test_witness_FetchTakesAGroup :
    (State.start cfg2 [lineV1 48]).traceDone = false ∧
    nextHas (fetch (State.start cfg2 [lineV1 48])) (fun t => t.traceDone && t.de.length == 1) = true ∧
    two.traceDone = false ∧ nextHas (fetch two) (fun t => !t.traceDone && t.de.length == 2) = true := by decide

theorem test_witness_RenameOneRecord :
    (rec1 .t0 0).src1Tag = none ∧ (rec1 .t0 0).src2Tag = none ∧ two.tail < two.rob.length := by decide

theorem test_witness_DestinationMapping :
    (rec1 .t0 0).dst = some 1 ∧ ({ two with tail := 1 }).head ≠ ({ two with tail := 1 }).tail := by decide

/-- A ROB with one free slot where two are needed. -/
theorem test_witness_RenameStallsOnFullRob : (State.start ⟨1, 4, 2⟩ []).robFree < (State.start ⟨1, 4, 2⟩ []).cfg.width := by
  decide

/-- The second record of a group of two, the first of which writes the register it reads (corner case (b)). -/
theorem test_witness_RenameSeesItsOwnGroup :
    two.cfg.width ≤ two.robFree ∧ two.tail < two.cfg.robSize ∧ 1 < two.cfg.width - two.rr.length ∧
    ({ two with rn := [rec1 .t0 0, { rec1 .t0 1 with src1 := some 1 }] } : State).rn[1]? = some { rec1 .t0 1 with src1 := some 1 } ∧
    two.producerTag [rec1 .t0 0] (some 1) = some 0 ∧ two.producerTag [] (some 1) = none := by decide

/-- A ROB with exactly `WIDTH` free slots. -/
theorem test_witness_RenameMovesAGroup :
    two.cfg.width ≤ two.robFree ∧ two.tail < two.cfg.robSize ∧ 0 < two.cfg.width - two.rr.length ∧
    ({ two with rn := [rec1 .t0 0] }).rn[0]? = some (rec1 .t0 0) := by decide

/-- A ready slot and one that is not, each named by a tag. -/
theorem test_witness_SnapTestsReadyOnly :
    retiring.rob[0]? = some { valid := true, ready := true, ins := s1At .rt, dstArf := some 1 } ∧
    retiring.rob[1]? = some { valid := true, ready := false, ins := rec1 .t0 1, dstArf := some 1 } ∧
    ({ rec1 .t0 1 with src1Tag := some 0, src2Tag := some 1 }).src1Tag = some 0 ∧
    ({ rec1 .t0 1 with src1Tag := some 0, src2Tag := some 1 }).src2Tag = some 1 ∧ (rec1 .t0 1).src1Tag = none ∧
    (rec1 .t0 1).src2Tag = none := by decide

/-- One free IQ slot where two are needed, and exactly two. -/
theorem test_witness_DispatchAllOrNothing :
    ({ waking with di := [rec1 .t0 0] }).di.length ≤ waking.cfg.width ∧ waking.iqFree < waking.cfg.width ∧
    ({ two with di := [rec1 .t0 0, rec1 .t1 1] }).di.length ≤ two.cfg.width ∧ two.cfg.width ≤ two.iqFree := by decide

/-- One entry below the cap. -/
theorem test_witness_IssueSelectsReadyEntries :
    ({ waking with exl := List.replicate 9 ⟨rec1 .t2 0, 1⟩ }).exl.length < 5 * waking.cfg.width := by decide

/-- The cap exactly. -/
theorem test_witness_IssueGuardPrecedesStamp :
    5 * waking.cfg.width ≤ ({ waking with exl := List.replicate 10 ⟨rec1 .t2 0, 1⟩ }).exl.length := by decide

/-- WB full to the last place before the one completion. -/
theorem test_witness_ExecuteCompletesExactly :
    ({ waking with wb := List.replicate 9 (rec1 .t0 7) }).wb.length + ({ waking with wb := List.replicate 9 (rec1 .t0 7) }).completing.length
      ≤ 5 * waking.cfg.width ∧ waking.completing.length = 1 := by decide

theorem test_witness_WakeupIsSeenInTheSameTick :
    ∃ x, waking.iq[1]? = some x ∧ x.valid = true ∧ x.ins.src1Tag = some 0 ∧
      ∀ t, (x.ins.src1Tag = some t ∨ x.ins.src2Tag = some t) → ∃ e ∈ waking.exl, e.rem = 1 ∧ e.ins.dstTag = some t := by
  refine ⟨_, rfl, rfl, rfl, ?_⟩
  rintro t (h | h) <;> cases h <;> exact ⟨_, List.mem_singleton.mpr rfl, rfl, rfl⟩

/-- A state in cycle 7 with a completed instruction in WB and its slot in the ROB. -/
def writing : State := { retiring with cycle := 7, wb := [rec1 .t0 1] }

theorem test_witness_WritebackDrainsBuffer :
    (writing.wb.map fun i => i.seq).Nodup ∧
    (∀ (j k : Nat) (x y : RobSlot), writing.rob[j]? = some x → writing.rob[k]? = some y → x.valid = true → y.valid = true →
      x.ins.seq = y.ins.seq → j = k) ∧
    rec1 .t0 1 ∈ writing.wb ∧ writing.rob[1]? = some { valid := true, ready := false, ins := rec1 .t0 1, dstArf := some 1 } := by
  refine ⟨by decide, ?_, by decide, rfl⟩
  intro j k x y hx hy _ _ he
  match j, k with
  | 0, 0 => rfl
  | 1, 1 => rfl
  | 0, 1 =>
    cases hx
    cases hy
    exact absurd he (by decide)
  | 1, 0 =>
    cases hx
    cases hy
    exact absurd he (by decide)
  | n + 2, _ => cases hx
  | 0, n + 2 => cases hy
  | 1, n + 2 => cases hy

theorem test_witness_RetireStampsReadySlots :
    ∃ x, retiring.rob[0]? = some x ∧ (x.valid && x.ready) = true ∧ ∃ y, retiring.rob[1]? = some y ∧ (y.valid && y.ready) = false :=
  ⟨_, rfl, rfl, _, rfl, rfl⟩

theorem test_witness_RetireIsInOrder : retiring.rob.length = retiring.cfg.robSize ∧ retiring.head < retiring.cfg.robSize := by
  decide

theorem test_witness_SizesHoldAtStart : cfg2.wellFormed = true := by decide
theorem test_witness_InvariantsHoldAtStart : cfg2.wellFormed = true := by decide

/-- The state `mid` is the one the run of `dependent` reaches in seven ticks. -/
theorem mid_reachable : Reachable mid := by
  obtain ⟨s, h, e⟩ := exists_nextHas (o := run 7 (State.start cfg2 dependent)) (p := fun s => decide (s = mid)) (by decide +kernel)
  exact of_decide_eq_true e ▸ ⟨_, _, 7, by decide, h⟩

theorem sized_mid : Sized mid := by constructor <;> decide

theorem programOrder_mid : ProgramOrder mid := by
  refine ⟨2, ⟨by decide, by decide, ?_⟩, by decide⟩
  intro k hk
  have : ∀ k, k < 2 → (mid.rob[mid.robIndex k]?).map (·.valid) = some (decide (k < 2)) := by decide
  exact this k hk

theorem rmtSound_mid : RmtSound mid where
  names := by
    have h : ∀ r : ArfIndex, mid.rmt[r].valid = true → r = 1 ∨ r = 2 := by decide
    intro r hr
    rcases h r hr with rfl | rfl
    · exact ⟨_, rfl, rfl, rfl, by decide⟩
    · exact ⟨_, rfl, rfl, rfl, by decide⟩
  mapped := by decide

theorem producer_atStage : AtStage producer .ex 7 where
  linked p q h hq := by
    cases p <;> cases h <;> first | exact absurd hq (by decide) | exact ⟨_, rfl, by decide, rfl⟩
  own := by decide
  later q h := by cases q <;> first | rfl | exact absurd h (by decide)
  fetch := rfl

theorem consumer_atStage : AtStage consumer .is 7 where
  linked p q h hq := by
    cases p <;> cases h <;> first | exact absurd hq (by decide) | exact ⟨_, rfl, by decide, rfl⟩
  own := by decide
  later q h := by cases q <;> first | rfl | exact absurd h (by decide)
  fetch := rfl

theorem timed_mid : Timed mid where
  de := by intro i h; cases h
  rn := by intro i h; cases h
  rr := by intro i h; cases h
  di := by intro i h; cases h
  iq := by
    have h : ∀ x ∈ mid.iq, x.valid = true → x.ins = consumer := by decide
    intro x hx hv
    exact h x hx hv ▸ consumer_atStage
  exl := by
    intro e h
    cases List.mem_singleton.mp h
    exact ⟨producer_atStage, by decide, rfl⟩
  exlCount st := Nat.le_trans List.countP_le_length (by decide)
  wb := by intro i h; cases h
  rob := by
    have h : ∀ x ∈ mid.rob, x.ready = false := by decide
    intro x hx _ hr
    rw [h x hx] at hr
    cases hr
  out := by intro r h; cases h

theorem groupAligned_mid : GroupAligned mid where
  de := ⟨.inl rfl, by intro i h; cases h⟩
  rn := ⟨.inl rfl, by intro i h; cases h⟩
  rr := ⟨.inl rfl, by intro i h; cases h⟩
  di := ⟨.inl rfl, by intro i h; cases h⟩

theorem travelling_mid : mid.travelling = [consumer, producer] := by decide
theorem unfinished_mid : mid.unfinished = [consumer, producer] := by decide

theorem inFlight_mid : InFlight mid where
  owns := by
    have u : ∀ n, n < 2 → ∀ j y, mid.rob[j]? = some y → y.valid = true → y.ins.seq = n → j = n := by
      intro n hn j y hy _ hs
      match j with
      | 0 => cases hy; exact hs
      | 1 => cases hy; exact hs
      | k + 2 => cases hy
    rw [travelling_mid]
    intro i hi
    rcases List.mem_cons.mp hi with rfl | hi
    · exact ⟨1, _, rfl, rfl, rfl, rfl, ⟨rfl, rfl, rfl, rfl, rfl, rfl⟩, u 1 (by decide)⟩
    · cases List.mem_singleton.mp hi
      exact ⟨0, _, rfl, rfl, rfl, rfl, ⟨rfl, rfl, rfl, rfl, rfl, rfl⟩, u 0 (by decide)⟩
  once := by decide
  present := by
    intro k x hx _ _
    rw [travelling_mid]
    match k with
    | 0 => exact ⟨producer, by decide, rfl⟩
    | 1 => exact ⟨consumer, by decide, rfl⟩
    | n + 2 => cases hx
  slots := by decide
  front := by intro i h; cases h

/-- The consumer holds the producer's tag. -/
theorem wakeupSound_mid : WakeupSound mid where
  source := by rw [unfinished_mid]; decide
  rr := by intro j h; cases h
  di := by intro j h; cases h
  iq := by
    have h : ∀ x ∈ mid.iq, x.valid = true → x.ins = consumer := by decide
    intro x hx hv r t ht
    rw [h x hx hv] at ht ⊢
    rcases ht with ⟨hr, ht⟩ | ⟨_, ht⟩
    · cases hr
      cases ht
      exact ⟨⟨_, rfl, rfl, by decide, by decide, by decide⟩, producer, by decide, rfl, rfl, by decide⟩
    · cases ht
  exl := by decide
  enforced := by
    rw [unfinished_mid]
    intro j hj p hp r ⟨hd, hs, _⟩
    rcases List.mem_cons.mp hj with rfl | hj
    · rcases List.mem_cons.mp hp with rfl | hp
      · exact absurd hs (Nat.lt_irrefl _)
      · cases List.mem_singleton.mp hp
        cases hd
        exact ⟨fun _ => rfl, by decide⟩
    · cases List.mem_singleton.mp hj
      exact absurd hs (Nat.not_lt_zero _)

theorem step_mid : ∃ t, step mid = .next t := exists_next (by decide)

theorem test_witness_SizesAreKept : Sized mid ∧ ∃ t, step mid = .next t := ⟨sized_mid, step_mid⟩

theorem test_witness_ProgramOrderIsKept : Sized mid ∧ ProgramOrder mid ∧ ∃ t, step mid = .next t :=
  ⟨sized_mid, programOrder_mid, step_mid⟩

theorem test_witness_RmtSoundnessIsKept : Sized mid ∧ ProgramOrder mid ∧ RmtSound mid ∧ ∃ t, step mid = .next t :=
  ⟨sized_mid, programOrder_mid, rmtSound_mid, step_mid⟩

theorem test_witness_InFlightIsKept : Sized mid ∧ ProgramOrder mid ∧ InFlight mid ∧ ∃ t, step mid = .next t :=
  ⟨sized_mid, programOrder_mid, inFlight_mid, step_mid⟩

theorem test_witness_TimingIsKept : Timed mid ∧ ∃ t, step mid = .next t := ⟨timed_mid, step_mid⟩

theorem test_witness_GroupAlignmentIsKept : GroupAligned mid ∧ ∃ t, step mid = .next t := ⟨groupAligned_mid, step_mid⟩

theorem test_witness_WakeupSoundnessIsKept : Sized mid ∧ ProgramOrder mid ∧ RmtSound mid ∧ Timed mid ∧ GroupAligned mid ∧
    InFlight mid ∧ WakeupSound mid ∧ ∃ t, step mid = .next t :=
  ⟨sized_mid, programOrder_mid, rmtSound_mid, timed_mid, groupAligned_mid, inFlight_mid, wakeupSound_mid, step_mid⟩

/-- A reachable state that has emitted a record: the end of scenario S1. -/
theorem test_witness_reachable_retired :
    ∃ s, Reachable s ∧ (s.done && s.out.length == 1 && s.cycle == 9) = true := by
  obtain ⟨s, h, e⟩ := exists_nextHas (o := run 9 (State.start .scenarioS1 [lineV1 48]))
    (p := fun s => s.done && s.out.length == 1 && s.cycle == 9) (by decide)
  exact ⟨s, ⟨_, _, 9, by decide, h⟩, e⟩

theorem test_witness_RetirementOrder : ∃ s, Reachable s ∧ s.out ≠ [] := by
  obtain ⟨s, h, e⟩ := test_witness_reachable_retired
  refine ⟨s, h, ?_⟩
  intro hn
  simp [hn] at e

theorem test_witness_RetiredTimestampsAndLatency : ∃ s, Reachable s ∧ ∃ r, r ∈ s.out := by
  obtain ⟨s, h, hn⟩ := test_witness_RetirementOrder
  exact ⟨s, h, List.exists_mem_of_ne_nil _ hn⟩

/-- A reachable state with an entry in EXL. -/
theorem test_witness_ExecutionListIsBounded : ∃ s, Reachable s ∧ s.exl ≠ [] := ⟨mid, mid_reachable, by decide⟩
/-- A reachable state with an IQ entry that holds a tag. -/
theorem test_witness_NoWakeupIsLost : ∃ s, Reachable s ∧ ∃ x ∈ s.iq, x.valid = true ∧ HoldsTag x.ins 1 0 :=
  ⟨mid, mid_reachable, { valid := true, ins := consumer }, by decide, rfl, .inl ⟨rfl, rfl⟩⟩

/-- Vector S2's pattern: the consumer enters execution in the tick in which the producer is written back. -/
theorem test_witness_ReadAfterWriteWaits : ∃ s, Reachable s ∧ ∃ p c, s.out[0]? = some p ∧ s.out[1]? = some c ∧
    p.dst = some 1 ∧ c.src1 = some 1 ∧ (p.times.get .wb).cyc = some 11 ∧ (c.times.get .ex).cyc = some 11 := by
  obtain ⟨s, h, e⟩ := exists_nextHas (o := run 14 (State.start cfg2 dependent))
    (p := fun s => decide (
      s.out[0]?.map (fun (r : TimingRecord) => (r.dst, (r.times.get .wb).cyc)) = some (some 1, some 11) ∧
      s.out[1]?.map (fun (r : TimingRecord) => (r.src1, (r.times.get .ex).cyc)) = some (some 1, some 11))) (by decide +kernel)
  obtain ⟨⟨p, hp, ep⟩, c, hc, ec⟩ := (of_decide_eq_true e).imp Option.map_eq_some_iff.mp Option.map_eq_some_iff.mp
  exact ⟨s, ⟨_, _, 14, by decide, h⟩, p, c, hp, hc, (Prod.mk.inj ep).1, (Prod.mk.inj ec).1, (Prod.mk.inj ep).2, (Prod.mk.inj ec).2⟩

theorem test_witness_StateAtEndOfRun : ∃ s, Reachable s ∧ s.done = true := by
  obtain ⟨s, h, e⟩ := test_witness_reachable_retired
  simp only [Bool.and_eq_true] at e
  exact ⟨s, h, e.1.1⟩

theorem test_witness_LoneInstructionTimeline :
    ∃ i, Sized (State.start cfg2 [encode i]) ∧ Drained (State.start cfg2 [encode i]) ∧ cfg2.live = true :=
  ⟨.op0 0 (some 1) (some 2) (some 3), by constructor <;> decide,
    by constructor <;> first | rfl | decide, by decide⟩

/-- `WIDTH` one above `ROB_SIZE`, and one above `IQ_SIZE`. -/
theorem test_witness_OversizedWidthHangs :
    (Config.wellFormed ⟨1, 4, 2⟩ = true ∧ (1 : Nat) < 2) ∧ Config.wellFormed ⟨4, 1, 2⟩ = true ∧ lineIsRecord (lineV1 48) = true ∧
    ∀ l ∈ [lineV1 49], lineInDomain l = true := by decide

theorem test_witness_EveryLiveRunTerminates : cfg2.live = true ∧ ∀ l ∈ two.trace, lineInDomain l = true := by decide

theorem test_witness_PcAndDoneFlagAreInert : ∃ t, step writing = .next t := exists_next (by decide)

end Sys2Proof.Tests
end

section
/-!
PROOFS. The end-of-stream latch (rule R28): what Fetch's loop makes of it, and O13.
-/

namespace Sys2Proof.Machine

/-- Room in a buffer of capacity `WIDTH`, as a number (rules R38, R116). -/
theorem State.room_iff (s : State) (b : List InsRec) : s.room b = true ↔ b.length < s.cfg.width := by
  simp [State.room]

/-- A record taken by an open Fetch goes to the end of DE (rule R121). -/
theorem State.fetchOne_de_of_open {s : State} (h : s.fetchOpen = true) (op : OpType) (pc : Pc) (d a b : RegField) :
    (s.fetchOne op pc d a b).de = s.de ++ [InsRec.create op pc d a b s.seqNext s.cycle] := by
  simp [State.fetchOne, h]

/-- `k` records may precede the end of the stream: the read loop, with `n` reads left, has room for each of them and for the
read that finds the end (rules R120, R121). -/
def State.endWithin (s : State) (n : Nat) : Prop :=
  ∃ k, k < n ∧ s.de.length + k < s.cfg.width ∧ traceAnswer (s.trace.drop k) = .endOfStream

theorem State.endWithin_of_end {s : State} (n : Nat) (hroom : s.room s.de = true)
    (hend : traceAnswer s.trace = .endOfStream) : s.endWithin (n + 1) :=
  ⟨0, n.succ_pos, s.room_iff s.de |>.mp hroom, hend⟩

theorem State.not_endWithin_of_full {s : State} (n : Nat) (hroom : s.room s.de = false) : ¬ s.endWithin n := by
  rintro ⟨k, -, hk, -⟩
  have : s.room s.de = true := (s.room_iff s.de).mpr (by omega)
  simp [this] at hroom

/-- A delivered record takes one read and one place of DE. -/
theorem State.endWithin_succ_of_record {s : State} {i : Instr} (n : Nat) (hlatch : s.traceDone = false)
    (hroom : s.room s.de = true) (hrec : traceAnswer s.trace = .instr i) :
    s.endWithin (n + 1) ↔ (s.consume.fetchOne i.op i.pc i.dst i.src1 i.src2).endWithin n := by
  have hopen : s.consume.fetchOpen = true := by
    show (!s.traceDone && s.room s.de) = true
    simp [hlatch, hroom]
  simp only [State.endWithin, State.fetchOne_de_of_open hopen, State.fetchOne_cfg, State.fetchOne_trace,
    State.consume_de, State.consume_cfg, State.consume_trace, List.length_append, List.length_singleton, List.drop_tail]
  constructor
  · rintro ⟨_ | k, hk, hlen, hend⟩
    · simp [hrec] at hend
    · exact ⟨k, by omega, by omega, hend⟩
  · rintro ⟨k, hk, hlen, hend⟩
    exact ⟨k + 1, by omega, by omega, hend⟩

/-- Fetch's loop latches the end of the stream exactly where it meets it (rules R28, R121). -/
theorem fetchLoop_traceDone {n : Nat} {s t : State} (h : fetchLoop n s = .next t) (hlatch : s.traceDone = false) :
    t.traceDone = true ↔ s.endWithin n := by
  induction n generalizing s with
  | zero =>
    cases h
    simp [hlatch, State.endWithin]
  | succ n ih =>
    rcases fetchLoop_succ_cases h with ⟨hroom, rfl⟩ | ⟨hroom, hend, rfl⟩ | ⟨hroom, i, hrec, hrest⟩
    · simp [hlatch, State.not_endWithin_of_full _ hroom]
    · simp [State.endWithin_of_end n hroom hend]
    · rw [State.endWithin_succ_of_record n hlatch hroom hrec]
      exact ih hrest hlatch

/-- Fetch does nothing once the end is latched (rule R120). -/
theorem fetch_of_traceDone {s : State} (h : s.traceDone = true) : fetch s = .next s := by
  simp [fetch, h]

/-- No step clears the latch (rule R28). -/
theorem step_keeps_traceDone {s t : State} (h : step s = .next t) (hlatch : s.traceDone = true) : t.traceDone = true := by
  obtain ⟨-, ⟨-, rfl⟩ | ⟨-, u, hu, rfl⟩⟩ := step_cases h
  · exact hlatch
  · have hstages : s.stages.traceDone = true := by rw [State.stages_traceDone, hlatch]
    rw [fetch_of_traceDone hstages] at hu
    cases hu
    exact hstages

/-- Settles O13: induction on the reads of Fetch for the clause on when the latch is set, the frames of the other eight stages
for the clause that a step never clears it. -/
theorem endOfStreamLatch : Obligations.EndOfStreamLatch := by
  refine ⟨rfl, fun s t hlatch h => ?_, fun s t => step_keeps_traceDone, fun s => fetch_of_traceDone, fun s hlatch => ?_⟩
  · rcases fetch_cases h with ⟨hset, -⟩ | ⟨-, hloop⟩
    · simp [hlatch] at hset
    · exact fetchLoop_traceDone hloop hlatch
  · simp [State.continues, hlatch]

end Sys2Proof.Machine
end

section
/-!
PROOFS. OUT is written by Retire alone and read by no stage (rule R39): each stage operation commutes with replacing the content
of OUT, and O15.
-/

namespace Sys2Proof.Machine

/-- The state with another content of OUT. -/
def State.withOut (s : State) (o : List TimingRecord) : State := { s with out := o }

@[simp] theorem State.withOut_out (s : State) (o : List TimingRecord) : (s.withOut o).out = o := rfl
@[simp] theorem State.withOut_cfg (s : State) (o : List TimingRecord) : (s.withOut o).cfg = s.cfg := rfl
@[simp] theorem State.withOut_continues (s : State) (o : List TimingRecord) : (s.withOut o).continues = s.continues := rfl
@[simp] theorem State.withOut_self (s : State) : s.withOut s.out = s := rfl

/-! Retire -/

/-- The loop of Retire stops at a head that is not valid and ready (rule R176). -/
theorem State.retireLoop_of_stopped {s : State} (h : ∀ x, s.rob[s.head]? = some x → (x.valid && x.ready) = false) (n : Nat) :
    s.retireLoop n = s := by
  cases n with
  | zero => rfl
  | succ n =>
    cases hx : s.rob[s.head]? with
    | none => simp [State.retireLoop, hx]
    | some x => simp [State.retireLoop, hx, h x hx]

/-- One round of the loop of Retire at a valid and ready head (rules R176 to R179). -/
theorem State.retireLoop_succ_of_ready {s : State} {x : RobSlot} (hx : s.rob[s.head]? = some x)
    (hready : (x.valid && x.ready) = true) (n : Nat) : s.retireLoop (n + 1) = (s.retireOne x).retireLoop n := by
  simp [State.retireLoop, hx, hready]

/-- The loop of Retire appends the same records to any content of OUT, at most one per round, and reads none of it. -/
theorem State.retireLoop_emits (s : State) (n : Nat) :
    ∃ l : List TimingRecord, l.length ≤ n ∧ ∀ o, (s.withOut o).retireLoop n = (s.retireLoop n).withOut (o ++ l) := by
  induction n generalizing s with
  | zero => exact ⟨[], Nat.le_refl 0, fun o => by rw [List.append_nil]; rfl⟩
  | succ n ih =>
    by_cases hhead : ∃ x, s.rob[s.head]? = some x ∧ (x.valid && x.ready) = true
    · obtain ⟨x, hx, hready⟩ := hhead
      obtain ⟨l, hl, he⟩ := ih (s.retireOne x)
      refine ⟨(x.ins.leave .rt s.cycle).timing :: l, Nat.succ_le_succ hl, fun o => ?_⟩
      have hone : (s.withOut o).retireOne x = (s.retireOne x).withOut (o ++ [(x.ins.leave .rt s.cycle).timing]) := rfl
      rw [State.retireLoop_succ_of_ready hx hready, State.retireLoop_succ_of_ready (s := s.withOut o) hx hready, hone, he,
        List.append_assoc, List.singleton_append]
    · have hstop : ∀ x, s.rob[s.head]? = some x → (x.valid && x.ready) = false := by simpa using hhead
      refine ⟨[], Nat.zero_le _, fun o => ?_⟩
      rw [State.retireLoop_of_stopped hstop, State.retireLoop_of_stopped (s := s.withOut o) hstop, List.append_nil]

/-- Retire appends the same records to any content of OUT, at most `WIDTH` (rules R39, R176). -/
theorem State.retire_emits (s : State) :
    ∃ l : List TimingRecord, l.length ≤ s.cfg.width ∧ ∀ o, (s.withOut o).retire = s.retire.withOut (o ++ l) :=
  State.retireLoop_emits { s with rob := s.rob.map fun x => x.stampRetire s.cycle } s.cfg.width

/-! The other stages: none reads OUT, none writes it. -/

theorem State.completeLoop_withOut (s : State) (es : List ExlEntry) (o : List TimingRecord) :
    (s.withOut o).completeLoop es = (s.completeLoop es).withOut o := by
  induction es generalizing s with
  | nil => rfl
  | cons e es ih =>
    simp only [State.completeLoop]
    split
    · exact ih (s.completeOne e)
    · exact ih { s with exl := s.exl ++ [e] }

theorem State.execute_withOut (s : State) (o : List TimingRecord) : (s.withOut o).execute = s.execute.withOut o :=
  State.completeLoop_withOut { s with exl := [] } _ o

theorem State.issueLoop_withOut (s : State) (n : Nat) (o : List TimingRecord) :
    (s.withOut o).issueLoop n = (s.issueLoop n).withOut o := by
  induction n generalizing s with
  | zero => rfl
  | succ n ih =>
    have hiq : (s.withOut o).iq = s.iq := rfl
    simp only [State.issueLoop, hiq]
    split
    · rfl
    · split
      · rfl
      · exact ih (s.issueOne _ _)

theorem State.issue_withOut (s : State) (o : List TimingRecord) : (s.withOut o).issue = s.issue.withOut o := by
  have hfull : (s.withOut o).exlFull = s.exlFull := rfl
  simp only [State.issue, hfull]
  split
  · rfl
  · exact State.issueLoop_withOut { s with iq := s.iq.map fun x => x.stampIssue s.cycle } _ o

theorem State.dispatchLoop_withOut (s : State) (b : List InsRec) (o : List TimingRecord) :
    (s.withOut o).dispatchLoop b = (s.dispatchLoop b).withOut o := by
  induction b generalizing s with
  | nil => rfl
  | cons i b ih =>
    have hiq : (s.withOut o).iq = s.iq := rfl
    simp only [State.dispatchLoop, hiq]
    split
    · rfl
    · exact ih { s with iq := _ }

theorem State.dispatch_withOut (s : State) (o : List TimingRecord) : (s.withOut o).dispatch = s.dispatch.withOut o := by
  have hadmits : (s.withOut o).iqAdmits = s.iqAdmits := rfl
  simp only [State.dispatch, hadmits]
  split
  · exact State.dispatchLoop_withOut s _ o
  · rfl

theorem State.renameLoop_withOut (s : State) (b : List InsRec) (o : List TimingRecord) :
    (s.withOut o).renameLoop b = (s.renameLoop b).withOut o := by
  induction b generalizing s with
  | nil => rfl
  | cons i b ih =>
    have hroom : (s.withOut o).room (s.withOut o).rr = s.room s.rr := rfl
    simp only [State.renameLoop, hroom]
    split
    · exact ih (s.renameOne i)
    · rfl

theorem State.rename_withOut (s : State) (o : List TimingRecord) : (s.withOut o).rename = s.rename.withOut o := by
  have hadmits : (s.withOut o).robAdmits = s.robAdmits := rfl
  simp only [State.rename, hadmits]
  split
  · exact State.renameLoop_withOut s _ o
  · rfl

theorem State.writeback_withOut (s : State) (o : List TimingRecord) : (s.withOut o).writeback = s.writeback.withOut o := rfl
theorem State.regRead_withOut (s : State) (o : List TimingRecord) : (s.withOut o).regRead = s.regRead.withOut o := rfl
theorem State.decode_withOut (s : State) (o : List TimingRecord) : (s.withOut o).decode = s.decode.withOut o := rfl

/-! The eight stages, Fetch and the tick -/

/-- Of the eight stages only Retire writes OUT. -/
theorem State.stages_out (s : State) : s.stages.out = s.retire.out := by
  simp [State.stages]

/-- The eight stages append the same records to any content of OUT, at most `WIDTH`. -/
theorem State.stages_emits (s : State) :
    ∃ l : List TimingRecord, l.length ≤ s.cfg.width ∧ ∀ o, (s.withOut o).stages = s.stages.withOut (o ++ l) := by
  obtain ⟨l, hl, he⟩ := s.retire_emits
  refine ⟨l, hl, fun o => ?_⟩
  simp only [State.stages, he, State.writeback_withOut, State.execute_withOut, State.issue_withOut,
    State.dispatch_withOut, State.regRead_withOut, State.rename_withOut, State.decode_withOut]

theorem fetchLoop_withOut (n : Nat) (s : State) (o : List TimingRecord) :
    fetchLoop n (s.withOut o) = andThen (fetchLoop n s) fun t => .next (t.withOut o) := by
  induction n generalizing s with
  | zero => rfl
  | succ n ih =>
    have hroom : (s.withOut o).room (s.withOut o).de = s.room s.de := rfl
    have htrace : (s.withOut o).trace = s.trace := rfl
    simp only [fetchLoop, hroom, htrace, exec_eq]
    split
    · split
      · exact ih (s.consume.fetchOne _ _ _ _ _)
      · rfl
      · rfl
      · rfl
    · rfl

/-- Fetch neither reads nor writes OUT. -/
theorem fetch_withOut (s : State) (o : List TimingRecord) :
    fetch (s.withOut o) = andThen (fetch s) fun t => .next (t.withOut o) := by
  have hdone : (s.withOut o).traceDone = s.traceDone := rfl
  simp only [fetch, hdone]
  split
  · rfl
  · exact fetchLoop_withOut s.cfg.width s o

theorem fetch_out {s t : State} (h : fetch s = .next t) : t.out = s.out := by
  have hsame := fetch_withOut s s.out
  rw [State.withOut_self, h] at hsame
  have ht : t = t.withOut s.out := Host.Outcome.next.inj hsame
  exact (congrArg State.out ht).trans (t.withOut_out s.out)

/-- A step whose driver goes on is the eight stages, then Fetch, then `cycle + 1` (rules R110 to R112). -/
theorem step_of_continues {s u : State} (hcfg : s.cfg.wellFormed = true) (hgo : s.continues = true)
    (hu : fetch s.stages = .next u) : step s = .next u.advance := by
  simp [step, driverStep, tick, hcfg, hgo, hu, andThen]

/-- A step whose driver has stopped changes nothing (rule R112, log 6). -/
theorem step_of_stopped {s : State} (hcfg : s.cfg.wellFormed = true) (hstop : s.continues = false) : step s = .next s := by
  simp [step, driverStep, hcfg, hstop]

/-- Settles O15: Retire appends the same records to any content of OUT, and everything else in a step commutes with
replacing that content. -/
theorem outputIsNeverRead : Obligations.OutputIsNeverRead := by
  intro s t h
  obtain ⟨hcfg, ⟨hstop, rfl⟩ | ⟨hgo, u, hu, rfl⟩⟩ := step_cases h
  · refine ⟨fun hgo => by simp [hstop] at hgo, [], Nat.zero_le _, (List.append_nil _).symm, fun o => ?_⟩
    rw [List.append_nil]
    exact step_of_stopped (s := t.withOut o) hcfg hstop
  · obtain ⟨l, hl, he⟩ := s.stages_emits
    have hout : u.out = s.stages.out := fetch_out hu
    refine ⟨fun _ => hout.trans s.stages_out, l, hl, ?_, fun o => ?_⟩
    · calc u.out = s.stages.out := hout
        _ = s.out ++ l := congrArg State.out (he s.out)
    · have hfetch : fetch (s.withOut o).stages = .next (u.withOut (o ++ l)) := by
        rw [he, fetch_withOut, hu]
        rfl
      exact step_of_continues (s := s.withOut o) hcfg hgo hfetch

end Sys2Proof.Machine
end

section
/-!
PROOFS. The selections of Issue (rules R36, R151 to R154): what one selection picks, the selections of one tick as a relation with
its properties, and O31.
-/

namespace Sys2Proof.Machine

/-! One selection -/

/-- The slot `x` at index `k` comes first among the ready slots: least pair (fetch cycle, index) (rule R152). -/
structure IsOldestReady (q : List IqSlot) (k : Nat) (x : IqSlot) : Prop where
  get : q[k]? = some x
  selectable : x.selectable = true
  least : ∀ (j : Nat) (y : IqSlot), q[j]? = some y → y.selectable = true →
    x.ins.age < y.ins.age ∨ (x.ins.age = y.ins.age ∧ k ≤ j)

/-- No ready slot in front: the first of the others is the first of all. -/
theorem IsOldestReady.cons_of_later {q : List IqSlot} {k : Nat} {x z : IqSlot} (h : IsOldestReady q k x)
    (hz : z.selectable = true → x.ins.age < z.ins.age) : IsOldestReady (z :: q) (k + 1) x where
  get := h.get
  selectable := h.selectable
  least
    | 0, y, hy, hs => by
      cases hy
      exact .inl (hz hs)
    | j + 1, y, hy, hs => (h.least j y hy hs).imp id fun ⟨ha, hk⟩ => ⟨ha, Nat.succ_le_succ hk⟩

/-- A ready slot in front that is no younger than any other is the first of all. -/
theorem isOldestReady_head {q : List IqSlot} {z : IqSlot} (hz : z.selectable = true)
    (hq : ∀ (j : Nat) (y : IqSlot), q[j]? = some y → y.selectable = true → z.ins.age ≤ y.ins.age) :
    IsOldestReady (z :: q) 0 z where
  get := rfl
  selectable := hz
  least
    | 0, y, hy, _ => by
      cases hy
      exact .inr ⟨rfl, Nat.le_refl 0⟩
    | j + 1, y, hy, hs => (Nat.lt_or_eq_of_le (hq j y hy hs)).imp id fun ha => ⟨ha, Nat.zero_le _⟩

/-- Issue selects nothing only where no slot is ready (rule R152). -/
theorem not_selectable_of_oldestReady_eq_none {q : List IqSlot} (h : oldestReady q = none) {k : Nat} {x : IqSlot}
    (hx : q[k]? = some x) : x.selectable = false := by
  induction q generalizing k with
  | nil => simp at hx
  | cons z q ih =>
    simp only [oldestReady] at h
    split at h
    · rename_i hnone
      cases k with
      | zero =>
        cases hx
        simpa using h
      | succ k => exact ih hnone hx
    · split at h <;> cases h

/-- What Issue selects is the first of the ready slots, with its age (rule R152). -/
theorem isOldestReady_of_oldestReady {q : List IqSlot} {a k : Nat} (h : oldestReady q = some (a, k)) :
    ∃ x, IsOldestReady q k x ∧ x.ins.age = a := by
  induction q generalizing a k with
  | nil => simp [oldestReady] at h
  | cons z q ih =>
    simp only [oldestReady] at h
    split at h
    · rename_i hnone
      split at h
      · rename_i hz
        cases h
        refine ⟨z, isOldestReady_head hz fun j y hy hs => ?_, rfl⟩
        simp [not_selectable_of_oldestReady_eq_none hnone hy] at hs
      · cases h
    · rename_i b m hsome
      obtain ⟨x, hx, rfl⟩ := ih hsome
      split at h
      · rename_i hz
        cases h
        obtain ⟨hsel, hage⟩ : z.selectable = true ∧ z.ins.age ≤ x.ins.age := by simpa using hz
        refine ⟨z, isOldestReady_head hsel fun j y hy hs => ?_, rfl⟩
        have := hx.least j y hy hs
        omega
      · rename_i hz
        cases h
        exact ⟨x, hx.cons_of_later fun hsel => by simpa [hsel] using hz, rfl⟩

/-! Freed slots -/

/-- The slot that Issue leaves behind (rule R153). -/
def IqSlot.freed (x : IqSlot) : IqSlot := { x with valid := false }

/-- A ready slot of an IQ with slot `k` freed is another slot, ready before. -/
theorem getElem?_of_selectable_set_freed {q : List IqSlot} {k j : Nat} {x y : IqSlot}
    (hy : (q.set k x.freed)[j]? = some y) (hs : y.selectable = true) : j ≠ k ∧ q[j]? = some y := by
  have hjk : j ≠ k := by
    rintro rfl
    rw [List.getElem?_set_self'] at hy
    obtain ⟨z, -, rfl⟩ := Option.map_eq_some_iff.mp hy
    simp [IqSlot.freed, IqSlot.selectable] at hs
  exact ⟨hjk, by rwa [List.getElem?_set_ne hjk.symm] at hy⟩

/-- The IQ with the given slots freed. -/
def freeAll (q : List IqSlot) (slots : List Nat) : List IqSlot :=
  q.mapIdx fun k x => { x with valid := x.valid && decide (k ∉ slots) }

@[simp] theorem freeAll_length (q : List IqSlot) (slots : List Nat) : (freeAll q slots).length = q.length := by
  simp [freeAll]

theorem freeAll_getElem? (q : List IqSlot) (slots : List Nat) (k : Nat) :
    (freeAll q slots)[k]? = q[k]?.map fun x => { x with valid := x.valid && decide (k ∉ slots) } := by
  simp [freeAll]

@[simp] theorem freeAll_nil (q : List IqSlot) : freeAll q [] = q := by
  refine List.ext_getElem? fun k => ?_
  simp [freeAll_getElem?]

/-- Freeing one slot and then others frees them all. -/
theorem freeAll_set_freed {q : List IqSlot} {k : Nat} {x : IqSlot} (hx : q[k]? = some x) (slots : List Nat) :
    freeAll (q.set k x.freed) slots = freeAll q (k :: slots) := by
  refine List.ext_getElem? fun j => ?_
  simp only [freeAll_getElem?]
  by_cases hjk : j = k
  · subst hjk
    simp [List.getElem?_set_self', hx, IqSlot.freed]
  · simp [List.getElem?_set_ne (Ne.symm hjk), hjk]

/-! The selections of one tick -/

/-- The entry Issue makes of the slot it takes in cycle `c` (rules R153, R154). -/
def IqSlot.issued (x : IqSlot) (c : Nat) : ExlEntry where
  ins := x.ins.leave .is c
  rem := latency x.ins.op

/-- At most `n` selections from the IQ `q` in cycle `c` take the slots listed and make the entries listed. -/
inductive Selections (c : Nat) : Nat → List IqSlot → List Nat → List ExlEntry → Prop where
  | limit (q : List IqSlot) : Selections c 0 q [] []
  | idle (n : Nat) {q : List IqSlot} (h : oldestReady q = none) : Selections c n q [] []
  | take {n k : Nat} {q : List IqSlot} {x : IqSlot} {slots : List Nat} {l : List ExlEntry} (hx : IsOldestReady q k x)
      (rest : Selections c n (q.set k x.freed) slots l) : Selections c (n + 1) q (k :: slots) (x.issued c :: l)

/-- The loop of Issue makes such selections, appends their entries to EXL, frees their slots and writes nothing else. -/
theorem State.issueLoop_selections (s : State) (n : Nat) :
    ∃ slots l, Selections s.cycle n s.iq slots l ∧
      s.issueLoop n = { s with exl := s.exl ++ l, iq := freeAll s.iq slots } := by
  induction n generalizing s with
  | zero => exact ⟨[], [], .limit s.iq, by simp [State.issueLoop]⟩
  | succ n ih =>
    cases ho : oldestReady s.iq with
    | none => exact ⟨[], [], .idle (n + 1) ho, by simp [State.issueLoop, ho]⟩
    | some p =>
      obtain ⟨x, hx, -⟩ := isOldestReady_of_oldestReady ho
      obtain ⟨slots, l, hsel, hloop⟩ := ih (s.issueOne p.2 x)
      refine ⟨p.2 :: slots, x.issued s.cycle :: l, .take hx hsel, ?_⟩
      have hround : s.issueLoop (n + 1) = (s.issueOne p.2 x).issueLoop n := by
        simp [State.issueLoop, ho, hx.get]
      have hiq : freeAll (s.issueOne p.2 x).iq slots = freeAll s.iq (p.2 :: slots) := freeAll_set_freed hx.get slots
      rw [hround, hloop, hiq]
      simp [State.issueOne, IqSlot.issued]

section
variable {c n : Nat} {q : List IqSlot} {slots : List Nat} {l : List ExlEntry}

theorem Selections.length_eq (h : Selections c n q slots l) : l.length = slots.length := by
  induction h with
  | limit => rfl
  | idle => rfl
  | take _ _ ih => simp [ih]

theorem Selections.length_le (h : Selections c n q slots l) : l.length ≤ n := by
  induction h with
  | limit => exact Nat.le_refl 0
  | idle => exact Nat.zero_le _
  | take _ _ ih => exact Nat.succ_le_succ ih

/-- The `m`-th slot taken was ready from the start, its entry is the `m`-th, and it comes first among the ready slots not taken
before it (rules R36, R152). -/
theorem Selections.taken (h : Selections c n q slots l) {m k : Nat} (hk : slots[m]? = some k) :
    ∃ x, q[k]? = some x ∧ x.selectable = true ∧ l[m]? = some (x.issued c) ∧
      ∀ (j : Nat) (y : IqSlot), q[j]? = some y → y.selectable = true → j ∉ slots.take m →
        x.ins.age < y.ins.age ∨ (x.ins.age = y.ins.age ∧ k ≤ j) := by
  induction h generalizing m with
  | limit => simp at hk
  | idle => simp at hk
  | @take n k₀ q x₀ slots l hx₀ _ ih =>
    cases m with
    | zero =>
      cases hk
      exact ⟨x₀, hx₀.get, hx₀.selectable, rfl, fun j y hy hs _ => hx₀.least j y hy hs⟩
    | succ m =>
      obtain ⟨x, hx, hsel, hl, hleast⟩ := ih hk
      refine ⟨x, (getElem?_of_selectable_set_freed hx hsel).2, hsel, hl, fun j y hy hs hj => ?_⟩
      obtain ⟨hjk, hj⟩ : j ≠ k₀ ∧ j ∉ slots.take m := by simpa using hj
      exact hleast j y (by rwa [List.getElem?_set_ne hjk.symm]) hs hj

/-- No slot is taken twice: a taken slot is no longer ready. -/
theorem Selections.nodup (h : Selections c n q slots l) : slots.Nodup := by
  induction h with
  | limit => exact List.nodup_nil
  | idle => exact List.nodup_nil
  | @take n k q x slots l _ rest ih =>
    refine List.nodup_cons.mpr ⟨fun hmem => ?_, ih⟩
    obtain ⟨m, hm⟩ := List.mem_iff_getElem?.mp hmem
    obtain ⟨y, hy, hs, -⟩ := rest.taken hm
    exact (getElem?_of_selectable_set_freed hy hs).1 rfl

/-- Short of the limit, every ready slot was taken (rule R152). -/
theorem Selections.exhausted (h : Selections c n q slots l) (hl : l.length < n) {k : Nat} {x : IqSlot} (hx : q[k]? = some x)
    (hs : x.selectable = true) : k ∈ slots := by
  induction h with
  | limit => simp at hl
  | idle _ hnone => simp [not_selectable_of_oldestReady_eq_none hnone hx] at hs
  | @take n k₀ q x₀ slots l _ _ ih =>
    by_cases hk : k = k₀
    · simp [hk]
    · have hmem : k ∈ slots := ih (by simpa using hl) (by rwa [List.getElem?_set_ne (Ne.symm hk)])
      exact List.mem_cons_of_mem k₀ hmem

end

/-! The stamp of Issue (rule R151) leaves what the selections read. -/

@[simp] theorem IqSlot.stampIssue_valid (x : IqSlot) (c : Nat) : (x.stampIssue c).valid = x.valid := by
  unfold IqSlot.stampIssue
  split <;> rfl

theorem IqSlot.stampIssue_ins (x : IqSlot) (c : Nat) :
    (x.stampIssue c).ins = if x.valid then x.ins.stamp .is c else x.ins := by
  unfold IqSlot.stampIssue
  split <;> rfl

@[simp] theorem IqSlot.stampIssue_selectable (x : IqSlot) (c : Nat) : (x.stampIssue c).selectable = x.selectable := by
  unfold IqSlot.stampIssue
  split <;> rfl

@[simp] theorem IqSlot.stampIssue_age (x : IqSlot) (c : Nat) : (x.stampIssue c).ins.age = x.ins.age := by
  unfold IqSlot.stampIssue
  split <;> rfl

/-- A selectable slot is valid and both its source tags are none (rules R22, R36). -/
theorem IqSlot.selectable_iff (x : IqSlot) :
    x.selectable = true ↔ x.valid = true ∧ x.ins.src1Tag = none ∧ x.ins.src2Tag = none := by
  simp [IqSlot.selectable, InsRec.ready]

/-- The entry made of a stamped valid slot, with the latency of its class written out (rules R101 to R103, R154). -/
theorem IqSlot.issued_stampIssue {x : IqSlot} (hx : x.valid = true) (c : Nat) :
    (x.stampIssue c).issued c = {
      ins := (x.ins.stamp .is c).leave .is c
      rem := match x.ins.op with | .t0 => 1 | .t1 => 2 | .t2 => 5 } := by
  simp only [IqSlot.issued, IqSlot.stampIssue_ins, hx, if_true, InsRec.stamp_op]
  cases x.ins.op <;> rfl

/-- Issue with the cap guard open (rules R150 to R152). -/
theorem State.issue_of_open {s : State} (h : s.exl.length < 5 * s.cfg.width) :
    s.issue = { s with iq := s.iq.map fun (x : IqSlot) => x.stampIssue s.cycle }.issueLoop s.cfg.width := by
  have hopen : s.exlFull = false := by simpa [State.exlFull] using h
  simp [State.issue, hopen]

/-- Settles O31: the selections of the loop, by induction on them, read back through the stamp of Issue. -/
theorem issueSelectsReadyEntries : Obligations.IssueSelectsReadyEntries := by
  intro s hopen
  obtain ⟨slots, l, hsel, hloop⟩ :=
    State.issueLoop_selections { s with iq := s.iq.map fun x => x.stampIssue s.cycle } s.cfg.width
  rw [State.issue_of_open hopen, hloop]
  have hstamped {j : Nat} {y : IqSlot} (hy : s.iq[j]? = some y) :
      (s.iq.map fun x => x.stampIssue s.cycle)[j]? = some (y.stampIssue s.cycle) := by simp [hy]
  refine ⟨slots, l, rfl, hsel.nodup, hsel.length_eq, hsel.length_le, fun m k hk => ?_, by simp, fun k x hx => ?_,
    fun hl k x hx hs => hsel.exhausted hl (hstamped hx) (by simpa using hs)⟩
  · obtain ⟨x', hx', hs, hl, hleast⟩ := hsel.taken hk
    obtain ⟨x, hx, rfl⟩ : ∃ x, s.iq[k]? = some x ∧ x.stampIssue s.cycle = x' := by simpa using hx'
    obtain ⟨hvalid, htag1, htag2⟩ := x.selectable_iff.mp (by simpa using hs)
    refine ⟨x, hx, hvalid, htag1, htag2, hl.trans (congrArg some (IqSlot.issued_stampIssue hvalid _)), fun j y hy hys hj => ?_⟩
    simpa using hleast j (y.stampIssue s.cycle) (hstamped hy) (by simpa using hys) hj
  · rw [freeAll_getElem?, hstamped hx, Option.map_some, IqSlot.stampIssue_valid, IqSlot.stampIssue_ins]

end Sys2Proof.Machine
end

section
/-!
PROOFS. The cycle counter (rule R111): Fetch leaves it alone, a tick ends with its increment, and O12.
-/

namespace Sys2Proof.Machine

/-- Neither a delivered record nor the latch of the end of stream writes `cycle` (rule R121). -/
theorem fetchLoop_cycle {n : Nat} {s t : State} (h : fetchLoop n s = .next t) : t.cycle = s.cycle := by
  induction n generalizing s with
  | zero =>
    cases h
    rfl
  | succ n ih =>
    rcases fetchLoop_succ_cases h with ⟨-, rfl⟩ | ⟨-, -, rfl⟩ | ⟨-, i, -, hrest⟩
    · rfl
    · exact s.latchEnd_cycle
    · calc t.cycle = (s.consume.fetchOne i.op i.pc i.dst i.src1 i.src2).cycle := ih hrest
        _ = s.consume.cycle := State.fetchOne_cycle ..
        _ = s.cycle := s.consume_cycle

/-- Fetch does not write `cycle` (rule R111). -/
theorem fetch_cycle {s t : State} (h : fetch s = .next t) : t.cycle = s.cycle := by
  rcases fetch_cases h with ⟨-, rfl⟩ | ⟨-, hloop⟩
  · rfl
  · exact fetchLoop_cycle hloop

/-- A step of a running driver is one tick, whatever the outcome of its Fetch (rules R111, R112). -/
theorem step_eq_tick {s : State} (hcfg : s.cfg.wellFormed = true) (hgo : s.continues = true) : step s = tick s := by
  simp [step, driverStep, hcfg, hgo]

/-- A step of a running driver counts one cycle (rule R111). -/
theorem step_cycle {s t : State} (h : step s = .next t) (hgo : s.continues = true) : t.cycle = s.cycle + 1 := by
  obtain ⟨-, ⟨hstop, -⟩ | ⟨-, u, hu, rfl⟩⟩ := step_cases h
  · simp [hstop] at hgo
  · calc u.advance.cycle = u.cycle + 1 := u.advance_cycle
      _ = s.stages.cycle + 1 := congrArg (· + 1) (fetch_cycle hu)
      _ = s.cycle + 1 := congrArg (· + 1) s.stages_cycle

/-- Settles O12: the tick is by definition the eight stages, Fetch, then the increment; each of the nine operations keeps `cycle`. -/
theorem cycleAdvancesOncePerTick : Obligations.CycleAdvancesOncePerTick :=
  ⟨fun _ hcfg hgo => step_eq_tick hcfg hgo, fun _ _ => step_cycle,
    fun s => ⟨s.retire_cycle, s.writeback_cycle, s.execute_cycle, s.issue_cycle, s.dispatch_cycle, s.regRead_cycle,
      s.rename_cycle, s.decode_cycle⟩,
    fun _ _ => fetch_cycle⟩

end Sys2Proof.Machine
end

section
/-!
PROOFS. Decode (rules R125, R126) in closed form, and O21.
-/

namespace Sys2Proof.Machine

/-- The room of RN splits the stamped DE: the records within it move with their duration, the others stay stamped (rule R126). -/
theorem State.decode_eq (s : State) :
    s.decode = { s with
      de := (stampAll s.de .de s.cycle).drop (s.cfg.width - s.rn.length)
      rn := s.rn ++ ((stampAll s.de .de s.cycle).take (s.cfg.width - s.rn.length)).map fun i => i.leave .de s.cycle } := by
  simp only [State.decode, moveWhile_eq]

/-- Settles O21: the closed form of Decode, where `stampAll` is by definition the stamp of every record (rule R125). -/
theorem decodeStampsAndMoves : Obligations.DecodeStampsAndMoves := fun s => s.decode_eq

end Sys2Proof.Machine
end

section
/-!
PROOFS. Register-Read (rules R138, R139) in closed form, and O26.
-/

namespace Sys2Proof.Machine

/-- The room of DI splits the stamped RR: the records within it move, snapped and with their duration, the others stay stamped
(rule R139). -/
theorem State.regRead_eq (s : State) :
    s.regRead = { s with
      rr := (stampAll s.rr .rr s.cycle).drop (s.cfg.width - s.di.length)
      di := s.di ++ ((stampAll s.rr .rr s.cycle).take (s.cfg.width - s.di.length)).map fun i =>
        i.regRead s.rob s.cycle } := by
  simp only [State.regRead, moveWhile_eq]

/-- Settles O26: the closed form of Register-Read, where `stampAll` is by definition the stamp of every record (rule R138) and
`InsRec.regRead` the snap followed by the duration (rule R139). -/
theorem registerReadStampsAndMoves : Obligations.RegisterReadStampsAndMoves := fun s => s.regRead_eq

end Sys2Proof.Machine
end

section
/-!
PROOFS. The destination mapping of Rename (rule R134): where it is written, what a retirement leaves of it, and O23.
-/

namespace Sys2Proof.Machine

/-- The entry of any register after one record is renamed (rule R134). -/
theorem State.renameOne_rmt_get (s : State) (i : InsRec) (r : ArfIndex) :
    (s.renameOne i).rmt[r] = if i.dst = some r then { valid := true, robTag := s.tail } else s.rmt[r] :=
  mapDest_get s.rmt i.dst s.tail r

/-- A mapping that names another slot than the retiring one survives, valid or not (rule R177). -/
theorem clearDest_get_of_robTag_ne {rmt : Vector RmtEntry numArf} {h : Nat} {r : ArfIndex} (hne : rmt[r].robTag ≠ h)
    (dst : RegField) : (clearDest rmt dst h)[r] = rmt[r] := by
  rw [clearDest_get, if_neg fun hclear => hne hclear.2.2]

/-- The ROB slots other than the one at `tail` are untouched by the allocation (rule R132). -/
theorem State.renameOne_rob_get_of_ne {s : State} {k : Nat} (hk : k ≠ s.tail) (i : InsRec) :
    (s.renameOne i).rob[k]? = s.rob[k]? := by
  rw [State.renameOne_rob, List.getElem?_set_ne hk.symm]

/-- Settles O23: the new entry is read back by `mapDest_get`; a retirement clears an entry that names its own slot only, and the new
one names `tail`, not `head` (rules R134, R177). -/
theorem destinationMapping : Obligations.DestinationMapping := by
  intro s i r hdst
  have hnew : (s.renameOne i).rmt[r] = { valid := true, robTag := s.tail } := by
    rw [State.renameOne_rmt_get, if_pos hdst]
  refine ⟨hnew, fun q hq => ?_, fun k hk => State.renameOne_rob_get_of_ne hk i, ?_, s.renameOne_di i, s.renameOne_iq i,
    fun x hne => ?_⟩
  · have hother : i.dst ≠ some q := fun h => hq (Option.some.inj (h.symm.trans hdst))
    rw [State.renameOne_rmt_get, if_neg hother]
  · rw [State.renameOne_rr]
    exact List.prefix_append _ _
  · have htag : (s.renameOne i).rmt[r].robTag ≠ (s.renameOne i).head := by
      rw [hnew, State.renameOne_head]
      exact hne.symm
    rw [State.retireOne_rmt, clearDest_get_of_robTag_ne htag, hnew]

end Sys2Proof.Machine
end

section
/-!
PROOFS. The wakeup broadcast (rule R160): what it makes of one instruction and of one IQ slot, what it leaves alone, and O33.
-/

namespace Sys2Proof.Machine

/-- The broadcast writes the source tags of a record and no other field of it (rule R160). -/
theorem InsRec.wake_eq (i : InsRec) (t : Option Nat) :
    i.wake t = { i with
      src1Tag := if i.src1Tag = t then none else i.src1Tag
      src2Tag := if i.src2Tag = t then none else i.src2Tag } := rfl

/-- A valid IQ slot is scanned (rule R160). -/
theorem IqSlot.wake_of_valid {x : IqSlot} (hvalid : x.valid = true) (t : Option Nat) :
    x.wake t = { x with ins := x.ins.wake t } := if_pos hvalid

/-- The content of a free IQ slot is not scanned (rule R160). -/
theorem IqSlot.wake_of_free {x : IqSlot} (hfree : ¬ x.valid = true) (t : Option Nat) : x.wake t = x := if_neg hfree

/-- The broadcast writes the IQ, DI and RR and no other part of the state (rule R160). -/
theorem State.broadcast_frame (s : State) (t : Option Nat) :
    s.broadcast t = { s with iq := (s.broadcast t).iq, di := (s.broadcast t).di, rr := (s.broadcast t).rr } := rfl

/-- Settles O33: DI and RR are scanned record by record, the IQ slot by slot, where a slot is either valid and its record is
scanned, or free and kept (rule R160). -/
theorem broadcastScansThreeStructures : Obligations.BroadcastScansThreeStructures := by
  intro s t
  refine ⟨s.broadcast_frame (some t), ?di, ?rr, ?iq⟩
  case di =>
    rw [State.broadcast_di]
    exact List.map_congr_left fun i _ => i.wake_eq (some t)
  case rr =>
    rw [State.broadcast_rr]
    exact List.map_congr_left fun i _ => i.wake_eq (some t)
  case iq =>
    rw [State.broadcast_iq]
    refine List.map_congr_left fun x _ => ?_
    split
    next hvalid => rw [IqSlot.wake_of_valid hvalid, InsRec.wake_eq]
    next hfree => exact IqSlot.wake_of_free hfree (some t)

end Sys2Proof.Machine
end

section
/-!
PROOFS. The conditional clear of Retire (rule R177), and O40.
-/

namespace Sys2Proof.Machine

/-- Settles O40: Retire writes the RMT through `clearDest` alone, with the destination of the retiring record and the slot at `head`;
`clearDest_get` reads the entry of any register back, without a destination too (rule R177). -/
theorem retireClearsOwnMappingOnly : Obligations.RetireClearsOwnMappingOnly := by
  intro s x r
  rw [State.retireOne_rmt, clearDest_get]

end Sys2Proof.Machine
end

section
/-!
PROOFS. The timing of one record (rules R117, R242 to R244): what the stamp of a stage and the hand-over to the next stage make of a
record that is on time.
-/

namespace Sys2Proof.Machine

/-! Stages in pipeline order -/

theorem Stage.place_of_next {p q : Stage} (h : p.next = some q) : q.place = p.place + 1 := by
  cases p <;> cases h <;> rfl

theorem Stage.exists_next_of_place_lt {p q : Stage} (h : p.place < q.place) : ∃ p', p.next = some p' := by
  cases p with
  | rt => cases q <;> simp [Stage.place] at h
  | _ => exact ⟨_, rfl⟩

theorem Stage.eq_of_place_eq {p q : Stage} (h : p.place = q.place) : p = q := by
  cases p <;> cases q <;> cases h <;> rfl

/-! A record at a stage -/

/-- A record that waits at stage `st` and has been observed by it in tick `c`: on time for the next tick, with the stamp of the stage
set (rule R117). -/
structure Observed (i : InsRec) (st : Stage) (c : Nat) : Prop where
  atStage : AtStage i st (c + 1)
  stamped : ∃ a, i.cyc st = some a

/-- The link of two stages, in the stamps and durations of a record (rule R243). -/
theorem InsRec.linked_iff {i : InsRec} {p q : Stage} {c : Nat} :
    i.times.linked p q c ↔ ∃ a, i.cyc p = some a ∧ 1 ≤ i.dur p ∧ (i.cyc q).getD c = a + i.dur p := Iff.rfl

/-- Being on time is a matter of the stamps and durations alone: the tags may change (rules R140, R160). -/
theorem AtStage.of_times_eq {i j : InsRec} {st : Stage} {c : Nat} (h : AtStage i st c) (ht : j.times = i.times) :
    AtStage j st c := by
  obtain ⟨linked, own, later, fetch⟩ := h
  simp only [InsRec.cyc, InsRec.dur, ← ht] at linked own later fetch
  exact ⟨linked, own, later, fetch⟩

/-- Every stage a record has passed is stamped (rule R242). -/
theorem AtStage.stamped_of_place_lt {i : InsRec} {p st : Stage} {c : Nat} (h : AtStage i st c) (hp : p.place < st.place) :
    ∃ a, i.cyc p = some a := by
  obtain ⟨q, hq⟩ := Stage.exists_next_of_place_lt hp
  have hplace := Stage.place_of_next hq
  obtain ⟨a, ha, -⟩ := h.linked p q hq (by omega)
  exact ⟨a, ha⟩

/-- The stamp keeps a record on time: a stamp that was unset becomes the cycle up to which the stage before it ran (rules R117,
R243). -/
theorem AtStage.stamp {i : InsRec} {st : Stage} {c : Nat} (h : AtStage i st c) : Observed (i.stamp st c) st c where
  stamped := ⟨_, i.stamp_cyc_self st c⟩
  atStage := {
    linked := fun p q hpq hq => by
      obtain ⟨a, ha, hdur, hlink⟩ := InsRec.linked_iff.mp (h.linked p q hpq hq)
      have hplace := Stage.place_of_next hpq
      have hp : p ≠ st := fun e => by subst e; omega
      refine InsRec.linked_iff.mpr ⟨a, by rwa [InsRec.stamp_cyc_other i c hp], by rwa [InsRec.stamp_dur], ?_⟩
      rw [InsRec.stamp_dur]
      by_cases hst : q = st
      · subst hst
        rw [InsRec.stamp_cyc_self]
        exact hlink
      · have hlt : q.place < st.place := Nat.lt_of_le_of_ne hq fun e => hst (Stage.eq_of_place_eq e)
        obtain ⟨b, hb⟩ := h.stamped_of_place_lt hlt
        rw [InsRec.stamp_cyc_other i c hst]
        simpa [hb] using hlink
    own := fun a ha => by
      rw [InsRec.stamp_cyc_self, Option.some.injEq] at ha
      cases hcyc : i.cyc st with
      | none =>
        rw [hcyc] at ha
        exact ha ▸ Nat.lt_succ_self c
      | some b =>
        rw [hcyc] at ha
        exact ha ▸ Nat.lt_succ_of_lt (h.own b hcyc)
    later := fun q hq => by
      rw [InsRec.stamp_cyc_other i c fun e => by subst e; omega]
      exact h.later q hq
    fetch := by
      rw [InsRec.stamp_dur]
      exact h.fetch }

/-- A record that a stage has observed and hands on is on time at the next stage, which sees it first in the next tick (rules R117,
R243). -/
theorem Observed.leave {i : InsRec} {p q : Stage} {c : Nat} (h : Observed i p c) (hpq : p.next = some q) (hfe : p ≠ .fe) :
    AtStage (i.leave p c) q (c + 1) := by
  obtain ⟨a, ha⟩ := h.stamped
  have hac : a < c + 1 := h.atStage.own a ha
  have hplace := Stage.place_of_next hpq
  have hq : i.cyc q = none := h.atStage.later q (by omega)
  refine ⟨fun p' q' hpq' hq' => InsRec.linked_iff.mpr ?_, fun b hb => ?_, fun q' hq' => ?_, ?_⟩
  · simp only [InsRec.leave_cyc]
    by_cases hp : p' = p
    · subst hp
      obtain rfl : q = q' := Option.some.inj (hpq.symm.trans hpq')
      rw [InsRec.leave_dur_self i p' c a ha, hq, Option.getD_none]
      exact ⟨a, ha, by omega, by omega⟩
    · have hplace' := Stage.place_of_next hpq'
      have hne : p'.place ≠ p.place := fun e => hp (Stage.eq_of_place_eq e)
      rw [InsRec.leave_dur_other i c hp]
      exact h.atStage.linked p' q' hpq' (by omega)
  · rw [InsRec.leave_cyc, hq] at hb
    cases hb
  · rw [InsRec.leave_cyc]
    exact h.atStage.later q' (by omega)
  · rw [InsRec.leave_dur_other i c hfe.symm]
    exact h.atStage.fetch

/-- A record that Fetch makes in cycle `c` is on time in DE (rules R87, R121). -/
theorem InsRec.create_atStage (op : OpType) (pc : Pc) (d a b : RegField) (n c : Nat) :
    AtStage (InsRec.create op pc d a b n c) .de (c + 1) where
  linked p q hpq hq := by
    cases p <;> cases hpq <;> simp [Stage.place] at hq
    exact ⟨c, rfl, Nat.le_refl 1, rfl⟩
  own a ha := by cases ha
  later q hq := by cases q <;> simp [Stage.place] at hq <;> rfl
  fetch := rfl

/-! The final timing -/

/-- What a ready ROB slot holds before tick `c`: a record that waits for Retire, with its execute and writeback durations (rules R32,
R104, R172). -/
structure FinalTiming (i : InsRec) (c : Nat) : Prop where
  atStage : AtStage i .rt c
  execute : i.dur .ex = latency i.op
  writeback : i.dur .wb = 1

/-- Writeback takes one cycle: it stamps and hands on in the same tick (rules R170, R171). -/
theorem finalTiming_of_writeback {i : InsRec} {c : Nat} (h : AtStage i .wb c) (hnew : i.cyc .wb = none)
    (hex : i.dur .ex = latency i.op) : FinalTiming ((i.stamp .wb c).leave .wb c) (c + 1) where
  atStage := h.stamp.leave rfl (by decide)
  execute := by
    rw [InsRec.leave_dur_other _ _ (by decide), InsRec.stamp_dur]
    exact hex
  writeback := by
    rw [InsRec.leave_dur_self _ _ c c (by rw [InsRec.stamp_cyc_self, hnew, Option.getD_none]), Nat.sub_self]

theorem FinalTiming.stamp {i : InsRec} {c : Nat} (h : FinalTiming i c) : FinalTiming (i.stamp .rt c) (c + 1) where
  atStage := h.atStage.stamp.atStage
  execute := by
    rw [InsRec.stamp_dur]
    exact h.execute
  writeback := by
    rw [InsRec.stamp_dur]
    exact h.writeback

/-- Where Retire has stamped a record too, each of its stages is linked to the next by two stamps (rules R242, R243). -/
theorem AtStage.linked_stamps {i : InsRec} {p q : Stage} {a c : Nat} (h : AtStage i .rt c) (ha : i.cyc .rt = some a)
    (hpq : p.next = some q) : ∃ b, i.cyc p = some b ∧ 1 ≤ i.dur p ∧ i.cyc q = some (b + i.dur p) := by
  have hrt : q.place ≤ Stage.rt.place := by cases q <;> decide
  have hq : ∃ e, i.cyc q = some e := by
    by_cases hq : q = .rt
    · exact ⟨a, hq ▸ ha⟩
    · exact h.stamped_of_place_lt (Nat.lt_of_le_of_ne hrt fun e => hq (Stage.eq_of_place_eq e))
  obtain ⟨e, he⟩ := hq
  obtain ⟨b, hb, hdur, hlink⟩ := InsRec.linked_iff.mp (h.linked p q hpq hrt)
  rw [he, Option.getD_some] at hlink
  exact ⟨b, hb, hdur, hlink ▸ he⟩

/-- The timing record of an instruction that retires in cycle `c` is complete (rules R178, R242 to R244). -/
theorem FinalTiming.complete {i : InsRec} {a c : Nat} (h : FinalTiming i (c + 1)) (ha : i.cyc .rt = some a) :
    (i.leave .rt c).timing.Complete where
  linked p q hpq := by
    have hp : p ≠ .rt := fun e => by subst e; cases hpq
    show ∃ b, (i.leave .rt c).cyc p = some b ∧ 1 ≤ (i.leave .rt c).dur p ∧
      (i.leave .rt c).cyc q = some (b + (i.leave .rt c).dur p)
    rw [InsRec.leave_cyc, InsRec.leave_cyc, InsRec.leave_dur_other i c hp]
    exact h.atStage.linked_stamps ha hpq
  fetch := (i.leave_dur_other c (by decide)).trans h.atStage.fetch
  execute := (i.leave_dur_other c (by decide)).trans h.execute
  writeback := (i.leave_dur_other c (by decide)).trans h.writeback
  retire := Nat.le_trans (Nat.le_add_left 1 (c - a)) (i.leave_dur_self .rt c a ha).ge

end Sys2Proof.Machine
end

section
/-!
PROOFS. The execution list (rules R104, R157 to R162, R239): the count down of one entry, how many entries there can be, and what
Execute makes of them.
-/

namespace Sys2Proof.Machine

/-! One entry -/

theorem latency_pos (op : OpType) : 1 ≤ latency op := by cases op <;> decide

theorem latency_le (op : OpType) : latency op ≤ 5 := by cases op <;> decide

/-- An entry that Execute has stamped and counted down in tick `c`; the count may have reached 0 (rules R157, R158). -/
structure ExlEntry.CountedDown (e : ExlEntry) (c : Nat) : Prop where
  observed : Observed e.ins .ex c
  count : ∀ a, e.ins.cyc .ex = some a → e.rem + (c + 1 - a) = latency e.ins.op

theorem ExlEntry.onTime.of_unset {e : ExlEntry} {c : Nat} (h : e.onTime c) (hcyc : e.ins.cyc .ex = none) :
    e.rem = latency e.ins.op := by
  simpa only [ExlEntry.onTime, hcyc] using h.2

theorem ExlEntry.onTime.of_set {e : ExlEntry} {a c : Nat} (h : e.onTime c) (hcyc : e.ins.cyc .ex = some a) :
    e.rem + (c - a) = latency e.ins.op := by
  simpa only [ExlEntry.onTime, hcyc] using h.2

theorem ExlEntry.countDown_cyc (e : ExlEntry) (c : Nat) : (e.countDown c).ins.cyc .ex = some ((e.ins.cyc .ex).getD c) :=
  e.ins.stamp_cyc_self .ex c

/-- One tick takes one off the count and adds one to the cycles since the stamp (rules R157, R158). -/
theorem ExlEntry.onTime.countDown {e : ExlEntry} {c : Nat} (h : e.onTime c) (hat : AtStage e.ins .ex c) :
    (e.countDown c).CountedDown c where
  observed := hat.stamp
  count a ha := by
    have hrem : 1 ≤ e.rem := h.1
    rw [ExlEntry.countDown_cyc, Option.some.injEq] at ha
    show e.rem - 1 + (c + 1 - a) = latency e.ins.op
    cases hcyc : e.ins.cyc .ex with
    | none =>
      have hlat := h.of_unset hcyc
      rw [hcyc, Option.getD_none] at ha
      omega
    | some b =>
      have hlat := h.of_set hcyc
      have hb := hat.own b hcyc
      rw [hcyc, Option.getD_some] at ha
      omega

/-- An entry whose count has not reached 0 stays, on time for the next tick. -/
theorem ExlEntry.CountedDown.onTime {e : ExlEntry} {c : Nat} (h : e.CountedDown c) (hrem : e.rem ≠ 0) : e.onTime (c + 1) := by
  obtain ⟨a, ha⟩ := h.observed.stamped
  refine ⟨Nat.one_le_iff_ne_zero.mpr hrem, ?_⟩
  rw [ha]
  exact h.count a ha

/-- A record that completes in tick `c` goes to WB with the latency of its class as its execute duration (rules R104, R159). -/
theorem ExlEntry.CountedDown.finish {e : ExlEntry} {c : Nat} (h : e.CountedDown c) (hrem : e.rem = 0) :
    AtStage (e.finish c) .wb (c + 1) ∧ (e.finish c).cyc .wb = none ∧ (e.finish c).dur .ex = latency e.ins.op := by
  obtain ⟨a, ha⟩ := h.observed.stamped
  have hac : a < c + 1 := h.observed.atStage.own a ha
  have hcount := h.count a ha
  refine ⟨(h.observed.leave rfl (by decide)).of_times_eq rfl, ?_, ?_⟩
  · exact (e.ins.leave_cyc .ex .wb c).trans (h.observed.atStage.later .wb (by decide))
  · calc (e.finish c).dur .ex = c - a + 1 := e.ins.leave_dur_self .ex c a ha
      _ = latency e.ins.op := by omega

/-! How many entries there are -/

/-- A list whose elements take the values `ks` only, each at most `n` times, is no longer than `n` for each value. -/
theorem length_le_of_countP_le {α β : Type} [DecidableEq β] (f : α → β) {n : Nat} {l : List α} (ks : List β)
    (hmem : ∀ x ∈ l, f x ∈ ks) (hcount : ∀ k, l.countP (fun x => decide (f x = k)) ≤ n) : l.length ≤ ks.length * n := by
  have hvalues : ∀ k ∈ (l.map f : Multiset β), k ∈ ks.toFinset := by simpa using hmem
  calc l.length = Multiset.card (l.map f : Multiset β) := by simp
    _ = ∑ k ∈ ks.toFinset, Multiset.count k (l.map f : Multiset β) := (Multiset.sum_count_eq_card hvalues).symm
    _ ≤ ks.toFinset.card • n := Finset.sum_le_card_nsmul _ _ _ fun k _ => by
      rw [Multiset.coe_count, List.count, List.countP_map]
      exact hcount k
    _ ≤ ks.length * n := Nat.mul_le_mul_right n ks.toFinset_card_le

/-- At most `WIDTH` entries have any one execute stamp, at most `WIDTH` have none (rule R239). -/
def StampedAtMost (n : Nat) (l : List ExlEntry) : Prop :=
  ∀ stamp : Option Nat, l.countP (fun e => decide (e.ins.cyc .ex = stamp)) ≤ n

/-- The count down of a tick keeps that bound: the stamps it sets are new. -/
theorem StampedAtMost.countDown {n c : Nat} {l : List ExlEntry} (h : StampedAtMost n l)
    (hl : ∀ e ∈ l, AtStage e.ins .ex c) : StampedAtMost n (l.map fun e => e.countDown c) := by
  intro stamp
  rw [List.countP_map]
  refine Nat.le_trans (List.countP_mono_left fun e he heq => ?_) (h (if stamp = some c then none else stamp))
  have hstamp : some ((e.ins.cyc .ex).getD c) = stamp := (e.countDown_cyc c).symm.trans (by simpa using heq)
  cases hcyc : e.ins.cyc .ex with
  | none => simp [← hstamp, hcyc]
  | some a =>
    have hold : a ≠ c := Nat.ne_of_lt ((hl e he).own a hcyc)
    simp [← hstamp, hcyc, hold]

/-- EXL holds at most `5 * WIDTH` entries between two ticks (rule R239). -/
theorem length_le_of_onTime {n c : Nat} {l : List ExlEntry} (h : StampedAtMost n l)
    (hl : ∀ e ∈ l, AtStage e.ins .ex c ∧ e.onTime c) : l.length ≤ 5 * n := by
  refine length_le_of_countP_le (fun e : ExlEntry => e.ins.cyc .ex) [none, some (c - 1), some (c - 2), some (c - 3), some (c - 4)]
    (fun e he => ?_) h
  obtain ⟨hat, htime⟩ := hl e he
  cases hcyc : e.ins.cyc .ex with
  | none => simp
  | some a =>
    have hown := hat.own a hcyc
    have hrem := htime.1
    have hlat := htime.of_set hcyc
    have hmax := latency_le e.ins.op
    simp only [List.mem_cons, Option.some.injEq, List.not_mem_nil, or_false, reduceCtorEq, false_or]
    omega

/-- When Execute has run at most `4 * WIDTH` entries are left, so its cap guard does not stop Issue (rules R150, R239). -/
theorem length_le_of_countedDown {n c : Nat} {l : List ExlEntry} (h : StampedAtMost n l)
    (hl : ∀ e ∈ l, e.CountedDown c ∧ e.rem ≠ 0) : l.length ≤ 4 * n := by
  refine length_le_of_countP_le (fun e : ExlEntry => e.ins.cyc .ex) [some c, some (c - 1), some (c - 2), some (c - 3)]
    (fun e he => ?_) h
  obtain ⟨hdown, hrem⟩ := hl e he
  obtain ⟨a, ha⟩ := hdown.observed.stamped
  have hown := hdown.observed.atStage.own a ha
  have hlat := hdown.count a ha
  have hmax := latency_le e.ins.op
  simp only [ha, List.mem_cons, Option.some.injEq, List.not_mem_nil, or_false]
  omega

/-! The pass of Execute over the list -/

/-- With room in WB for every entry of the pass nothing is deferred: those at 0 go to WB, the others stay (rules R159 to R162). -/
theorem State.completeLoop_of_room {s : State} {es : List ExlEntry} (h : s.wb.length + es.length ≤ s.cfg.wbCap) :
    (s.completeLoop es).exl = s.exl ++ es.filter (fun e => decide (e.rem ≠ 0)) ∧
      (s.completeLoop es).wb = s.wb ++ (es.filter fun e => decide (e.rem = 0)).map fun e => e.finish s.cycle := by
  induction es generalizing s with
  | nil => simp [State.completeLoop]
  | cons e es ih =>
    rw [List.length_cons] at h
    by_cases hrem : e.rem = 0
    · have hroom : s.wbRoom = true := decide_eq_true (by omega)
      have hwb : (s.completeOne e).wb = s.wb ++ [e.finish s.cycle] := if_pos hroom
      have hexl : (s.completeOne e).exl = s.exl := if_pos hroom
      have hrest := ih (s := s.completeOne e) (by rw [hwb]; simp; omega)
      simpa [State.completeLoop, hrem, hwb, hexl] using hrest
    · have hrest := ih (s := { s with exl := s.exl ++ [e] }) (by show s.wb.length + es.length ≤ s.cfg.wbCap; omega)
      simpa [State.completeLoop, hrem] using hrest

/-- Execute with room in WB for all of EXL (rules R157 to R162). -/
theorem State.execute_of_room {s : State} (h : s.wb.length + s.exl.length ≤ s.cfg.wbCap) :
    s.execute.exl = (s.exl.map fun e => e.countDown s.cycle).filter (fun e => decide (e.rem ≠ 0)) ∧
      s.execute.wb = s.wb ++ ((s.exl.map fun e => e.countDown s.cycle).filter fun e => decide (e.rem = 0)).map
        fun e => e.finish s.cycle :=
  State.completeLoop_of_room (s := { s with exl := [] }) (by simpa using h)

/-- The broadcasts of a pass change tags only: the timing of the records in RR, in DI and in the IQ is as before (rule R160). -/
theorem State.completeLoop_times (s : State) (es : List ExlEntry) :
    (s.completeLoop es).rr.map (·.times) = s.rr.map (·.times) ∧ (s.completeLoop es).di.map (·.times) = s.di.map (·.times) ∧
      (s.completeLoop es).iq.map (fun x => (x.valid, x.ins.times)) = s.iq.map fun x => (x.valid, x.ins.times) := by
  have hwake (t : Option Nat) (x : IqSlot) : ((x.wake t).valid, (x.wake t).ins.times) = (x.valid, x.ins.times) := by
    unfold IqSlot.wake
    split <;> rfl
  induction es generalizing s with
  | nil => exact ⟨rfl, rfl, rfl⟩
  | cons e es ih =>
    simp only [State.completeLoop]
    split
    · simpa [Function.comp_def, hwake] using ih (s.completeOne e)
    · exact ih { s with exl := s.exl ++ [e] }

end Sys2Proof.Machine
end

section
/-!
PROOFS. The nine stage operations keep every instruction on time (rules R117, R239, R242 to R244): one lemma per operation, which takes
what waits at its stage from tick `c` to tick `c + 1` and puts what it hands on, on time for `c + 1`, at the next stage.
-/

namespace Sys2Proof.Machine

/-! What waits in a buffer, in the IQ, in EXL, in WB and in the ROB -/

/-- Every record of a buffer waits on time at stage `st`. -/
def BufferOnTime (b : List InsRec) (st : Stage) (c : Nat) : Prop := ∀ i ∈ b, AtStage i st c

/-- Every record in the IQ is on time. -/
def QueueOnTime (q : List IqSlot) (c : Nat) : Prop := ∀ x ∈ q, x.valid = true → AtStage x.ins .is c

/-- Every entry of EXL is on time, its count down too. -/
def ExlOnTime (l : List ExlEntry) (c : Nat) : Prop := ∀ e ∈ l, AtStage e.ins .ex c ∧ e.onTime c

/-- Every record in WB came there in the last tick, after the latency of its class (rule R104). -/
def WritebackOnTime (b : List InsRec) (c : Nat) : Prop :=
  ∀ i ∈ b, AtStage i .wb c ∧ i.cyc .wb = none ∧ i.dur .ex = latency i.op

/-- Every occupied ready slot holds the final timing (rule R32). -/
def RobOnTime (rob : List RobSlot) (c : Nat) : Prop := ∀ x ∈ rob, x.valid = true → x.ready = true → FinalTiming x.ins c

theorem BufferOnTime.of_times_eq {b b' : List InsRec} {st : Stage} {c : Nat} (h : BufferOnTime b st c)
    (ht : b'.map (·.times) = b.map (·.times)) : BufferOnTime b' st c := by
  intro i hi
  have hmem : i.times ∈ b.map (·.times) := ht ▸ List.mem_map_of_mem hi
  obtain ⟨j, hj, htimes⟩ := List.mem_map.mp hmem
  exact (h j hj).of_times_eq htimes.symm

theorem QueueOnTime.of_times_eq {q q' : List IqSlot} {c : Nat} (h : QueueOnTime q c)
    (ht : q'.map (fun x => (x.valid, x.ins.times)) = q.map fun x => (x.valid, x.ins.times)) : QueueOnTime q' c := by
  intro x hx hvalid
  have hmem : (x.valid, x.ins.times) ∈ q.map fun x => (x.valid, x.ins.times) := ht ▸ List.mem_map_of_mem hx
  obtain ⟨y, hy, hpair⟩ := List.mem_map.mp hmem
  obtain ⟨hv, htimes⟩ := Prod.mk.inj hpair
  exact (h y hy (hv.trans hvalid)).of_times_eq htimes.symm

theorem BufferOnTime.stampAll {b : List InsRec} {st : Stage} {c : Nat} (h : BufferOnTime b st c) :
    ∀ i ∈ stampAll b st c, Observed i st c := by
  intro i hi
  obtain ⟨j, hj, rfl⟩ := List.mem_map.mp hi
  exact (h j hj).stamp

/-- The moves "while B has room" of Register-Read and Decode: what stays is observed, what moves is on time behind what stands in the
next buffer (rules R126, R139). -/
theorem BufferOnTime.moves {b dst : List InsRec} {p q : Stage} {c : Nat} (k : Nat) {f : InsRec → InsRec}
    (hb : BufferOnTime b p c) (hdst : BufferOnTime dst q (c + 1)) (hpq : p.next = some q) (hfe : p ≠ .fe)
    (hf : ∀ i, (f i).times = (i.leave p c).times) :
    BufferOnTime ((Machine.stampAll b p c).drop k) p (c + 1) ∧
      BufferOnTime (dst ++ ((Machine.stampAll b p c).take k).map f) q (c + 1) := by
  refine ⟨fun i hi => (hb.stampAll i (List.mem_of_mem_drop hi)).atStage, fun i hi => ?_⟩
  rcases List.mem_append.mp hi with hi | hi
  · exact hdst i hi
  · obtain ⟨j, hj, rfl⟩ := List.mem_map.mp hi
    exact ((hb.stampAll j (List.mem_of_mem_take hj)).leave hpq hfe).of_times_eq (hf j)

/-! Retire (rules R175 to R178) -/

/-- What the loop of Retire finds and what it keeps: ready slots that are stamped and final, and complete records in OUT. -/
structure RetireOnTime (s : State) : Prop where
  rob : ∀ x ∈ s.rob, x.valid = true → x.ready = true →
    FinalTiming x.ins (s.cycle + 1) ∧ ∃ a, x.ins.cyc .rt = some a
  out : ∀ r ∈ s.out, r.Complete

theorem RetireOnTime.retireOne {s : State} {x : RobSlot} (h : RetireOnTime s) (hx : s.rob[s.head]? = some x)
    (hready : (x.valid && x.ready) = true) : RetireOnTime (s.retireOne x) where
  rob y hy hv hr := by
    rcases List.mem_or_eq_of_mem_set hy with hy | rfl
    · exact h.rob y hy hv hr
    · cases hv
  out r hr := by
    rcases List.mem_append.mp hr with hr | hr
    · exact h.out r hr
    · obtain ⟨hv, hr'⟩ := Bool.and_eq_true_iff.mp hready
      obtain ⟨hfinal, a, ha⟩ := h.rob x (List.mem_of_getElem? hx) hv hr'
      obtain rfl := List.mem_singleton.mp hr
      exact hfinal.complete ha

theorem RetireOnTime.retireLoop {s : State} (h : RetireOnTime s) (n : Nat) : RetireOnTime (s.retireLoop n) := by
  induction n generalizing s with
  | zero => exact h
  | succ n ih =>
    by_cases hhead : ∃ x, s.rob[s.head]? = some x ∧ (x.valid && x.ready) = true
    · obtain ⟨x, hx, hready⟩ := hhead
      rw [State.retireLoop_succ_of_ready hx hready]
      exact ih (h.retireOne hx hready)
    · rw [State.retireLoop_of_stopped (by simpa using hhead)]
      exact h

theorem State.retire_onTime {s : State} (hrob : RobOnTime s.rob s.cycle) (hout : ∀ r ∈ s.out, r.Complete) :
    RobOnTime s.retire.rob (s.cycle + 1) ∧ ∀ r ∈ s.retire.out, r.Complete := by
  have hstamped : RetireOnTime { s with rob := s.rob.map fun x => x.stampRetire s.cycle } := by
    refine ⟨fun y hy hv hr => ?_, hout⟩
    obtain ⟨x, hx, rfl⟩ := List.mem_map.mp hy
    unfold RobSlot.stampRetire at hv hr ⊢
    split at hv
    next hready =>
      rw [if_pos hready]
      obtain ⟨hv', hr'⟩ := Bool.and_eq_true_iff.mp hready
      exact ⟨(hrob x hx hv' hr').stamp, _, x.ins.stamp_cyc_self .rt s.cycle⟩
    next hwait =>
      rw [if_neg hwait] at hr
      exact absurd (Bool.and_eq_true_iff.mpr ⟨hv, hr⟩) hwait
  have hloop := hstamped.retireLoop s.cfg.width
  refine ⟨fun x hx hv hr => ?_, hloop.out⟩
  simpa using (hloop.rob x hx hv hr).1

/-! Writeback (rules R170 to R172) -/

theorem RobOnTime.writebackRob {rob : List RobSlot} {i : InsRec} {c : Nat} (h : RobOnTime rob c) (hi : FinalTiming i c) :
    RobOnTime (writebackRob rob i) c := by
  induction rob with
  | nil => exact h
  | cons x rob ih =>
    obtain ⟨hx, hrob⟩ := List.forall_mem_cons.mp h
    simp only [Machine.writebackRob]
    split
    · exact List.forall_mem_cons.mpr ⟨fun _ _ => hi, hrob⟩
    · exact List.forall_mem_cons.mpr ⟨hx, ih hrob⟩

theorem RobOnTime.writebackAll {rob : List RobSlot} {b : List InsRec} {c : Nat} (h : RobOnTime rob (c + 1))
    (hb : ∀ i ∈ b, FinalTiming (i.leave .wb c) (c + 1)) : RobOnTime (writebackAll c b rob) (c + 1) := by
  induction b generalizing rob with
  | nil => exact h
  | cons i b ih =>
    obtain ⟨hi, hb⟩ := List.forall_mem_cons.mp hb
    exact ih (h.writebackRob hi) hb

theorem State.writeback_onTime {s : State} (hrob : RobOnTime s.rob (s.cycle + 1)) (hwb : WritebackOnTime s.wb s.cycle) :
    RobOnTime s.writeback.rob (s.cycle + 1) := by
  refine hrob.writebackAll fun j hj => ?_
  obtain ⟨i, hi, rfl⟩ := List.mem_map.mp hj
  obtain ⟨hat, hnew, hex⟩ := hwb i hi
  exact finalTiming_of_writeback hat hnew hex

/-! Execute (rules R157 to R162) -/

/-- What EXL holds between Execute and Issue of tick `c`: stamped entries, on time for the next tick, and room for more. -/
structure ExlCountedDown (l : List ExlEntry) (n c : Nat) : Prop where
  entries : ∀ e ∈ l, e.CountedDown c ∧ e.rem ≠ 0
  bound : StampedAtMost n l

theorem ExlOnTime.countDown {l : List ExlEntry} {c : Nat} (h : ExlOnTime l c) :
    ∀ e ∈ l.map fun e => e.countDown c, e.CountedDown c := by
  intro e he
  obtain ⟨e₀, he₀, rfl⟩ := List.mem_map.mp he
  obtain ⟨hat, htime⟩ := h e₀ he₀
  exact htime.countDown hat

theorem State.execute_onTime {s : State} (hexl : ExlOnTime s.exl s.cycle) (hbound : StampedAtMost s.cfg.width s.exl)
    (hwb : s.wb = []) : ExlCountedDown s.execute.exl s.cfg.width s.cycle ∧ WritebackOnTime s.execute.wb (s.cycle + 1) := by
  have hlen := length_le_of_onTime hbound hexl
  obtain ⟨hstay, hdone⟩ := State.execute_of_room (s := s) (by simpa [hwb] using hlen)
  have hcount := hbound.countDown fun e he => (hexl e he).1
  rw [hwb, List.nil_append] at hdone
  rw [hstay, hdone]
  refine ⟨⟨fun e he => ?_, fun stamp => Nat.le_trans List.filter_sublist.countP_le (hcount stamp)⟩, fun i hi => ?_⟩
  · obtain ⟨he, hrem⟩ := List.mem_filter.mp he
    exact ⟨hexl.countDown e he, of_decide_eq_true hrem⟩
  · obtain ⟨e, he, rfl⟩ := List.mem_map.mp hi
    obtain ⟨he, hrem⟩ := List.mem_filter.mp he
    exact (hexl.countDown e he).finish (of_decide_eq_true hrem)

theorem State.execute_times (s : State) :
    s.execute.rr.map (·.times) = s.rr.map (·.times) ∧ s.execute.di.map (·.times) = s.di.map (·.times) ∧
      s.execute.iq.map (fun x => (x.valid, x.ins.times)) = s.iq.map fun x => (x.valid, x.ins.times) :=
  State.completeLoop_times { s with exl := [] } _

/-! Issue (rules R150 to R154) -/

/-- A slot that Issue takes gives an entry whose execution has not begun (rules R153, R154). -/
theorem IqSlot.issued_onTime {x : IqSlot} {c : Nat} (h : Observed x.ins .is c) :
    (AtStage (x.issued c).ins .ex (c + 1) ∧ (x.issued c).onTime (c + 1)) ∧ (x.issued c).ins.cyc .ex = none := by
  have hcyc : (x.issued c).ins.cyc .ex = none :=
    (x.ins.leave_cyc .is .ex c).trans (h.atStage.later .ex (by decide))
  refine ⟨⟨h.leave rfl (by decide), latency_pos x.ins.op, ?_⟩, hcyc⟩
  rw [hcyc]
  rfl

/-- Every entry of the selections comes from a slot that was ready from the start. -/
theorem Selections.mem {c n : Nat} {q : List IqSlot} {slots : List Nat} {l : List ExlEntry} (h : Selections c n q slots l)
    {e : ExlEntry} (he : e ∈ l) : ∃ x ∈ q, x.valid = true ∧ e = x.issued c := by
  obtain ⟨m, hm, rfl⟩ := List.mem_iff_getElem.mp he
  have hslot : slots[m]? = some (slots[m]'(h.length_eq ▸ hm)) := List.getElem?_eq_getElem _
  obtain ⟨x, hx, hsel, hl, -⟩ := h.taken hslot
  rw [List.getElem?_eq_getElem hm, Option.some.injEq] at hl
  exact ⟨x, List.mem_of_getElem? hx, (x.selectable_iff.mp hsel).1, hl⟩

/-- Freeing slots leaves the others on time. -/
theorem QueueOnTime.freeAll {q : List IqSlot} {c : Nat} (h : QueueOnTime q c) (slots : List Nat) :
    QueueOnTime (freeAll q slots) c := by
  intro y hy hv
  obtain ⟨k, hk⟩ := List.mem_iff_getElem?.mp hy
  rw [freeAll_getElem?] at hk
  obtain ⟨x, hx, rfl⟩ := Option.map_eq_some_iff.mp hk
  exact h x (List.mem_of_getElem? hx) (Bool.and_eq_true_iff.mp hv).1

/-- New entries that are few and not begun keep the bound on the execute stamps. -/
theorem StampedAtMost.append {n c : Nat} {l new : List ExlEntry} (h : StampedAtMost n l) (hl : ∀ e ∈ l, e.CountedDown c)
    (hnew : ∀ e ∈ new, e.ins.cyc .ex = none) (hlen : new.length ≤ n) : StampedAtMost n (l ++ new) := by
  intro stamp
  rw [List.countP_append]
  cases stamp with
  | none =>
    have hold : l.countP (fun e => decide (e.ins.cyc .ex = none)) = 0 := by
      refine List.countP_eq_zero.mpr fun e he => ?_
      obtain ⟨a, ha⟩ := (hl e he).observed.stamped
      simp [ha]
    have hle := List.countP_le_length (p := fun e : ExlEntry => decide (e.ins.cyc .ex = none)) (l := new)
    omega
  | some a =>
    have hzero : new.countP (fun e => decide (e.ins.cyc .ex = some a)) = 0 :=
      List.countP_eq_zero.mpr fun e he => by simp [hnew e he]
    have hold := h (some a)
    omega

theorem State.issue_onTime {s : State} (hcfg : s.cfg.wellFormed = true) (hiq : QueueOnTime s.iq s.cycle)
    (hexl : ExlCountedDown s.exl s.cfg.width s.cycle) :
    QueueOnTime s.issue.iq (s.cycle + 1) ∧ ExlOnTime s.issue.exl (s.cycle + 1) ∧ StampedAtMost s.cfg.width s.issue.exl := by
  have hwidth : 0 < s.cfg.width := by
    simp only [Config.wellFormed, Bool.and_eq_true, decide_eq_true_eq] at hcfg
    exact hcfg.2
  have hlen := length_le_of_countedDown hexl.bound hexl.entries
  have hobserved : ∀ x ∈ s.iq.map fun x => x.stampIssue s.cycle, x.valid = true → Observed x.ins .is s.cycle := by
    intro y hy hv
    obtain ⟨x, hx, rfl⟩ := List.mem_map.mp hy
    rw [IqSlot.stampIssue_valid] at hv
    rw [IqSlot.stampIssue_ins, if_pos hv]
    exact (hiq x hx hv).stamp
  obtain ⟨slots, l, hsel, hloop⟩ :=
    State.issueLoop_selections { s with iq := s.iq.map fun x => x.stampIssue s.cycle } s.cfg.width
  have hnew : ∀ e ∈ l, (AtStage e.ins .ex (s.cycle + 1) ∧ e.onTime (s.cycle + 1)) ∧ e.ins.cyc .ex = none := by
    intro e he
    obtain ⟨x, hx, hv, rfl⟩ := hsel.mem he
    exact IqSlot.issued_onTime (hobserved x hx hv)
  rw [State.issue_of_open (by omega), hloop]
  refine ⟨?_, fun e he => ?_, ?_⟩
  · exact QueueOnTime.freeAll (fun x hx hv => (hobserved x hx hv).atStage) slots
  · rcases List.mem_append.mp he with he | he
    · obtain ⟨hdown, hrem⟩ := hexl.entries e he
      exact ⟨hdown.observed.atStage, hdown.onTime hrem⟩
    · exact (hnew e he).1
  · exact hexl.bound.append (fun e he => (hexl.entries e he).1) (fun e he => (hnew e he).2) hsel.length_le

/-! Dispatch, Register-Read, Rename and Decode (rules R125 to R144) -/

theorem State.dispatchLoop_onTime {s : State} {b : List InsRec} (hb : ∀ i ∈ b, Observed i .di s.cycle)
    (hiq : QueueOnTime s.iq (s.cycle + 1)) :
    BufferOnTime (s.dispatchLoop b).di .di (s.cycle + 1) ∧ QueueOnTime (s.dispatchLoop b).iq (s.cycle + 1) := by
  induction b generalizing s with
  | nil => exact ⟨List.forall_mem_nil _, hiq⟩
  | cons i b ih =>
    simp only [State.dispatchLoop]
    split
    · exact ⟨fun j hj => (hb j hj).atStage, hiq⟩
    · obtain ⟨hi, hb⟩ := List.forall_mem_cons.mp hb
      refine ih hb fun x hx hv => ?_
      rcases List.mem_or_eq_of_mem_set hx with hx | rfl
      · exact hiq x hx hv
      · exact (hi.leave rfl (by decide)).of_times_eq rfl

theorem State.dispatch_onTime {s : State} (hdi : BufferOnTime s.di .di s.cycle) (hiq : QueueOnTime s.iq (s.cycle + 1)) :
    BufferOnTime s.dispatch.di .di (s.cycle + 1) ∧ QueueOnTime s.dispatch.iq (s.cycle + 1) := by
  unfold State.dispatch
  split
  · exact State.dispatchLoop_onTime hdi.stampAll hiq
  · exact ⟨fun i hi => (hdi.stampAll i hi).atStage, hiq⟩

theorem State.regRead_onTime {s : State} (hrr : BufferOnTime s.rr .rr s.cycle) (hdi : BufferOnTime s.di .di (s.cycle + 1)) :
    BufferOnTime s.regRead.rr .rr (s.cycle + 1) ∧ BufferOnTime s.regRead.di .di (s.cycle + 1) := by
  rw [State.regRead_eq]
  exact hrr.moves _ hdi rfl (by decide) fun i => rfl

/-- A renamed record goes on time to RR; the slot it is given is not ready (rule R132). -/
theorem State.renameLoop_onTime {s : State} {b : List InsRec} (hb : ∀ i ∈ b, Observed i .rn s.cycle)
    (hrr : BufferOnTime s.rr .rr (s.cycle + 1)) (hrob : RobOnTime s.rob (s.cycle + 1)) :
    BufferOnTime (s.renameLoop b).rn .rn (s.cycle + 1) ∧ BufferOnTime (s.renameLoop b).rr .rr (s.cycle + 1) ∧
      RobOnTime (s.renameLoop b).rob (s.cycle + 1) := by
  induction b generalizing s with
  | nil => exact ⟨List.forall_mem_nil _, hrr, hrob⟩
  | cons i b ih =>
    simp only [State.renameLoop]
    split
    · obtain ⟨hi, hb⟩ := List.forall_mem_cons.mp hb
      refine ih hb (fun j hj => ?_) fun x hx hv hr => ?_
      · rcases List.mem_append.mp hj with hj | hj
        · exact hrr j hj
        · obtain rfl := List.mem_singleton.mp hj
          exact (hi.leave rfl (by decide)).of_times_eq rfl
      · rcases List.mem_or_eq_of_mem_set hx with hx | rfl
        · exact hrob x hx hv hr
        · cases hr
    · exact ⟨fun j hj => (hb j hj).atStage, hrr, hrob⟩

theorem State.rename_onTime {s : State} (hrn : BufferOnTime s.rn .rn s.cycle) (hrr : BufferOnTime s.rr .rr (s.cycle + 1))
    (hrob : RobOnTime s.rob (s.cycle + 1)) :
    BufferOnTime s.rename.rn .rn (s.cycle + 1) ∧ BufferOnTime s.rename.rr .rr (s.cycle + 1) ∧
      RobOnTime s.rename.rob (s.cycle + 1) := by
  unfold State.rename
  split
  · exact State.renameLoop_onTime hrn.stampAll hrr hrob
  · exact ⟨fun i hi => (hrn.stampAll i hi).atStage, hrr, hrob⟩

theorem State.decode_onTime {s : State} (hde : BufferOnTime s.de .de s.cycle) (hrn : BufferOnTime s.rn .rn (s.cycle + 1)) :
    BufferOnTime s.decode.de .de (s.cycle + 1) ∧ BufferOnTime s.decode.rn .rn (s.cycle + 1) := by
  rw [State.decode_eq]
  exact hde.moves _ hrn rfl (by decide) fun i => rfl

/-! Fetch (rules R120, R121) -/

theorem State.fetchOne_onTime {s : State} (h : BufferOnTime s.de .de (s.cycle + 1)) (op : OpType) (pc : Pc)
    (d a b : RegField) : BufferOnTime (s.fetchOne op pc d a b).de .de (s.cycle + 1) := by
  intro i hi
  by_cases hopen : s.fetchOpen = true
  · rw [State.fetchOne_de_of_open hopen] at hi
    rcases List.mem_append.mp hi with hi | hi
    · exact h i hi
    · obtain rfl := List.mem_singleton.mp hi
      exact InsRec.create_atStage ..
  · exact h i (by simpa [State.fetchOne, hopen] using hi)

theorem fetchLoop_onTime {n : Nat} {s t : State} (h : fetchLoop n s = .next t) (hde : BufferOnTime s.de .de (s.cycle + 1)) :
    BufferOnTime t.de .de (s.cycle + 1) := by
  induction n generalizing s with
  | zero =>
    cases h
    exact hde
  | succ n ih =>
    rcases fetchLoop_succ_cases h with ⟨-, rfl⟩ | ⟨-, -, rfl⟩ | ⟨-, i, -, hrest⟩
    · exact hde
    · exact hde
    · have hone := State.fetchOne_onTime (s := s.consume) hde i.op i.pc i.dst i.src1 i.src2
      exact (ih hrest hone :)

theorem fetch_onTime {s t : State} (h : fetch s = .next t) (hde : BufferOnTime s.de .de (s.cycle + 1)) :
    BufferOnTime t.de .de (s.cycle + 1) := by
  rcases fetch_cases h with ⟨-, rfl⟩ | ⟨-, hloop⟩
  · exact hde
  · exact fetchLoop_onTime hloop hde

/-- Fetch writes DE, the next sequence number, the latch and the trace, and no other part of the state (rule R121). -/
def SameBehindFetch (s t : State) : Prop :=
  t = { s with de := t.de, seqNext := t.seqNext, traceDone := t.traceDone, trace := t.trace }

theorem fetchLoop_frame {n : Nat} {s t : State} (h : fetchLoop n s = .next t) : SameBehindFetch s t := by
  induction n generalizing s with
  | zero =>
    cases h
    rfl
  | succ n ih =>
    rcases fetchLoop_succ_cases h with ⟨-, rfl⟩ | ⟨-, -, rfl⟩ | ⟨-, i, -, hrest⟩
    · rfl
    · rfl
    · exact (ih hrest :)

theorem fetch_frame {s t : State} (h : fetch s = .next t) : SameBehindFetch s t := by
  rcases fetch_cases h with ⟨-, rfl⟩ | ⟨-, hloop⟩
  · rfl
  · exact fetchLoop_frame hloop

end Sys2Proof.Machine
end

section
/-!
PROOFS. Every step keeps every instruction on time, so every reachable state is (rules R242 to R244), and O49.
-/

namespace Sys2Proof.Machine

/-- Every instruction in flight is on time for tick `c`, and every emitted record is complete. -/
structure OnTimeFor (s : State) (c : Nat) : Prop where
  de : BufferOnTime s.de .de c
  rn : BufferOnTime s.rn .rn c
  rr : BufferOnTime s.rr .rr c
  di : BufferOnTime s.di .di c
  iq : QueueOnTime s.iq c
  exl : ExlOnTime s.exl c
  exlBound : StampedAtMost s.cfg.width s.exl
  wb : WritebackOnTime s.wb c
  rob : RobOnTime s.rob c
  out : ∀ r ∈ s.out, r.Complete

/-- Between two ticks that is the timing invariant, with the next tick as `c`. -/
theorem timed_iff {s : State} : Timed s ↔ OnTimeFor s s.cycle where
  mp h := {
    de := h.de
    rn := h.rn
    rr := h.rr
    di := h.di
    iq := h.iq
    exl := h.exl
    exlBound := h.exlCount
    wb := h.wb
    rob := fun x hx hv hr => by
      obtain ⟨hat, hex, hwb⟩ := h.rob x hx hv hr
      exact ⟨hat, hex, hwb⟩
    out := h.out }
  mpr h := {
    de := h.de
    rn := h.rn
    rr := h.rr
    di := h.di
    iq := h.iq
    exl := h.exl
    exlCount := h.exlBound
    wb := h.wb
    rob := fun x hx hv hr => by
      obtain ⟨hat, hex, hwb⟩ := h.rob x hx hv hr
      exact ⟨hat, hex, hwb⟩
    out := h.out }

/-- The eight stages of a tick keep every instruction on time: each finds its own buffer as the last tick left it, and the buffer it
moves to already served in this tick (rule R110). -/
theorem OnTimeFor.stages {s : State} (h : OnTimeFor s s.cycle) (hcfg : s.cfg.wellFormed = true) :
    OnTimeFor s.stages (s.cycle + 1) := by
  obtain ⟨hrob, hout⟩ := State.retire_onTime h.rob h.out
  have hrob := State.writeback_onTime (s := s.retire) (by simpa using hrob) (by simpa using h.wb)
  obtain ⟨hrr, hdi, hiq⟩ := s.retire.writeback.execute_times
  obtain ⟨hexl, hwb⟩ := State.execute_onTime (s := s.retire.writeback) (by simpa using h.exl) (by simpa using h.exlBound) rfl
  obtain ⟨hiq, hexl, hbound⟩ := State.issue_onTime (s := s.retire.writeback.execute) (by simpa using hcfg)
    (QueueOnTime.of_times_eq (by simpa using h.iq) hiq) (by simpa using hexl)
  obtain ⟨hdi, hiq⟩ := State.dispatch_onTime (s := s.retire.writeback.execute.issue)
    (BufferOnTime.of_times_eq (by simpa using h.di) (by simpa using hdi)) (by simpa using hiq)
  obtain ⟨hrr, hdi⟩ := State.regRead_onTime (s := s.retire.writeback.execute.issue.dispatch)
    (BufferOnTime.of_times_eq (by simpa using h.rr) (by simpa using hrr)) (by simpa using hdi)
  obtain ⟨hrn, hrr, hrob⟩ := State.rename_onTime (s := s.retire.writeback.execute.issue.dispatch.regRead)
    (by simpa using h.rn) (by simpa using hrr) (by simpa using hrob)
  obtain ⟨hde, hrn⟩ := State.decode_onTime (s := s.retire.writeback.execute.issue.dispatch.regRead.rename)
    (by simpa using h.de) (by simpa using hrn)
  constructor
  case de => simpa [State.stages] using hde
  case rn => simpa [State.stages] using hrn
  case rr => simpa [State.stages] using hrr
  case di => simpa [State.stages] using hdi
  case iq => simpa [State.stages] using hiq
  case exl => simpa [State.stages] using hexl
  case exlBound => simpa [State.stages] using hbound
  case wb => simpa [State.stages] using hwb
  case rob => simpa [State.stages] using hrob
  case out => simpa [State.stages] using hout

theorem OnTimeFor.fetch {s t : State} (h : OnTimeFor s (s.cycle + 1)) (hfetch : Machine.fetch s = .next t) :
    OnTimeFor t (s.cycle + 1) := by
  have hde : BufferOnTime t.de .de (s.cycle + 1) := fetch_onTime hfetch h.de
  rw [fetch_frame hfetch]
  exact { h with de := hde }

/-- Every step keeps every instruction on time. -/
theorem step_keeps_timed {s t : State} (h : Timed s) (hstep : step s = .next t) : Timed t := by
  obtain ⟨hcfg, ⟨-, rfl⟩ | ⟨-, u, hu, rfl⟩⟩ := step_cases hstep
  · exact h
  · have hstages : OnTimeFor s.stages (s.stages.cycle + 1) := by simpa using (timed_iff.mp h).stages hcfg
    have hfetch := hstages.fetch hu
    rw [← fetch_cycle hu] at hfetch
    exact timed_iff.mpr { hfetch with }

/-- Nothing is in flight at the start of a run (rule R40). -/
theorem timed_start (cfg : Config) (trace : List TraceLine) : Timed (State.start cfg trace) where
  de := List.forall_mem_nil _
  rn := List.forall_mem_nil _
  rr := List.forall_mem_nil _
  di := List.forall_mem_nil _
  iq x hx hv := by
    obtain rfl := List.eq_of_mem_replicate hx
    cases hv
  exl := List.forall_mem_nil _
  exlCount _ := Nat.zero_le _
  wb := List.forall_mem_nil _
  rob x hx hv := by
    obtain rfl := List.eq_of_mem_replicate hx
    cases hv
  out := List.forall_mem_nil _

/-- What a state has and every step keeps, every run from it keeps. -/
theorem run_induction {P : State → Prop} (hstep : ∀ {s t : State}, P s → step s = .next t → P t) {n : Nat} {s t : State}
    (hs : P s) (hrun : run n s = .next t) : P t := by
  induction n generalizing s with
  | zero =>
    cases hrun
    exact hs
  | succ n ih =>
    obtain ⟨u, hu, hrest⟩ := andThen_next.mp hrun
    exact ih (hstep hs hu) hrest

theorem Reachable.timed {s : State} (h : Reachable s) : Timed s := by
  obtain ⟨cfg, trace, n, -, hrun⟩ := h
  exact run_induction step_keeps_timed (timed_start cfg trace) hrun

/-- The latencies of the three classes, written out (rules R101 to R103). -/
theorem latency_eq (op : OpType) : latency op = match op with | .t0 => 1 | .t1 => 2 | .t2 => 5 := by cases op <;> rfl

/-- Settles O49: every reachable state is on time, by induction on the run, so every emitted record is complete; its stamps rise
because each is the one before plus a duration of at least 1. -/
theorem retiredTimestampsAndLatency : Obligations.RetiredTimestampsAndLatency := by
  intro s hs r hr
  have hr := hs.timed.out r hr
  refine ⟨fun p q hpq => ?_, hr.execute.trans (latency_eq r.op), hr.fetch, hr.writeback, hr.retire⟩
  obtain ⟨a, ha, hdur, hb⟩ := hr.linked p q hpq
  exact ⟨a, a + (r.times.get p).dur, ha, hb, by omega, by omega⟩

end Sys2Proof.Machine
end

section
/-!
PROOFS. The trace line (rules R80 to R86): fields and white space, digits and their value, the encoder read back by the decoder, and
O1 to O5.
-/

namespace Sys2Proof

/-! Fields -/

/-- A field as it stands in a line: at least one byte, none of them white space. -/
structure IsField (f : List Byte) : Prop where
  ne_nil : f ≠ []
  noSpace : ∀ b ∈ f, isSpace b = false

/-- Bytes without white space go to the run being read. -/
theorem splitFields_append {f : List Byte} (hf : ∀ b ∈ f, isSpace b = false) (bs cur : List Byte) :
    splitFields (f ++ bs) cur = splitFields bs (f.reverse ++ cur) := by
  induction f generalizing cur with
  | nil => rfl
  | cons b f ih =>
    obtain ⟨hb, hf⟩ := List.forall_mem_cons.mp hf
    simp [splitFields, hb, ih hf]

/-- A field and the blank behind it are the first field of a line. -/
theorem IsField.splitFields_blank {f : List Byte} (hf : IsField f) (bs : List Byte) :
    splitFields (f ++ 32 :: bs) [] = f :: splitFields bs [] := by
  have hblank : isSpace 32#8 = true := rfl
  rw [splitFields_append hf.noSpace]
  simp [splitFields, hblank, hf.ne_nil]

/-- A field at the end of a line is its last. -/
theorem IsField.splitFields_last {f : List Byte} (hf : IsField f) : splitFields f [] = [f] := by
  have h := splitFields_append hf.noSpace [] []
  rw [List.append_nil] at h
  rw [h]
  simp [splitFields, hf.ne_nil]

/-! Digits -/

/-- The byte of a hexadecimal digit is its digit, no white space, no minus sign and no mark of a hexadecimal number. -/
theorem digitByte_hex : ∀ d : Fin 16, hexDigit (digitByte d) = some d.val ∧ isSpace (digitByte d) = false ∧
    digitByte d ≠ 45 ∧ digitByte d ≠ 120 ∧ digitByte d ≠ 88 := by decide

/-- The byte of a decimal digit is its digit. -/
theorem digitByte_dec : ∀ d : Fin 10, decDigit (digitByte d) = some d.val := by decide

theorem mem_digitsOf {base : Nat} (hbase : 0 < base) {fuel n : Nat} {b : Byte} (hb : b ∈ digitsOf base fuel n) :
    ∃ d, d < base ∧ b = digitByte d := by
  induction fuel generalizing n with
  | zero =>
    obtain rfl := List.mem_singleton.mp hb
    exact ⟨n % base, Nat.mod_lt n hbase, rfl⟩
  | succ fuel ih =>
    simp only [digitsOf] at hb
    split at hb
    next hn =>
      obtain rfl := List.mem_singleton.mp hb
      exact ⟨n, hn, rfl⟩
    next =>
      rcases List.mem_append.mp hb with hb | hb
      · exact ih hb
      · obtain rfl := List.mem_singleton.mp hb
        exact ⟨n % base, Nat.mod_lt n hbase, rfl⟩

theorem digitsOf_ne_nil (base fuel n : Nat) : digitsOf base fuel n ≠ [] := by
  cases fuel with
  | zero => exact List.cons_ne_nil _ _
  | succ fuel =>
    simp only [digitsOf]
    split <;> simp

/-- What the bytes of a digit string are: digits below 16. -/
theorem digitsOf_bytes {base : Nat} (hpos : 0 < base) (hbase : base ≤ 16) {fuel n : Nat} {b : Byte}
    (hb : b ∈ digitsOf base fuel n) : isSpace b = false ∧ b ≠ 45 ∧ b ≠ 120 ∧ b ≠ 88 := by
  obtain ⟨d, hd, rfl⟩ := mem_digitsOf hpos hb
  exact (digitByte_hex ⟨d, by omega⟩).2

theorem isField_digitsOf {base : Nat} (hpos : 0 < base) (hbase : base ≤ 16) (fuel n : Nat) : IsField (digitsOf base fuel n) where
  ne_nil := digitsOf_ne_nil base fuel n
  noSpace _ hb := (digitsOf_bytes hpos hbase hb).1

theorem digitsValue_append (base : Nat) (digit : Byte → Option Nat) (l m : List Byte) (acc : Nat) :
    digitsValue base digit (l ++ m) acc = (digitsValue base digit l acc).bind (digitsValue base digit m) := by
  induction l generalizing acc with
  | nil => rfl
  | cons b l ih =>
    simp only [List.cons_append, digitsValue]
    split
    · exact ih _
    · rfl

theorem digitsValue_singleton {base d acc : Nat} {digit : Byte → Option Nat} {b : Byte} (h : digit b = some d) :
    digitsValue base digit [b] acc = some (base * acc + d) := by
  simp [digitsValue, h]

/-- The digits of a number denote it, where there are enough of them. -/
theorem digitsValue_digitsOf {base : Nat} {digit : Byte → Option Nat} (hdigit : ∀ d, d < base → digit (digitByte d) = some d)
    {fuel n : Nat} (hn : n < base ^ (fuel + 1)) : digitsValue base digit (digitsOf base fuel n) 0 = some n := by
  induction fuel generalizing n with
  | zero =>
    have hlt : n < base := by simpa using hn
    rw [digitsOf, Nat.mod_eq_of_lt hlt, digitsValue_singleton (hdigit n hlt), Nat.mul_zero, Nat.zero_add]
  | succ fuel ih =>
    simp only [digitsOf]
    split
    next hlt => rw [digitsValue_singleton (hdigit n hlt), Nat.mul_zero, Nat.zero_add]
    next hge =>
      have hpos : 0 < base := by
        rcases Nat.eq_zero_or_pos base with rfl | h
        · simp at hn
        · exact h
      have hdiv : n / base < base ^ (fuel + 1) := Nat.div_lt_of_lt_mul (by rwa [← Nat.pow_succ'])
      rw [digitsValue_append, ih hdiv, Option.bind_some, digitsValue_singleton (hdigit _ (Nat.mod_lt n hpos)),
        Nat.div_add_mod]

theorem parseDigits_digitsOf {base : Nat} {digit : Byte → Option Nat} (hdigit : ∀ d, d < base → digit (digitByte d) = some d)
    {fuel n : Nat} (hn : n < base ^ (fuel + 1)) : parseDigits base digit (digitsOf base fuel n) = some n := by
  simp [parseDigits, digitsOf_ne_nil, digitsValue_digitsOf hdigit hn]

/-! Each field of the encoded line is parsed to its number -/

/-- A text without the letter of a hexadecimal mark has no such mark. -/
theorem dropHexMark_of_no_mark {bs : List Byte} (h : ∀ b ∈ bs, b ≠ 120 ∧ b ≠ 88) : dropHexMark bs = bs := by
  match bs, h with
  | [], _ => rfl
  | [_], _ => rfl
  | a :: b :: bs, h =>
    obtain ⟨hx, hX⟩ := h b (by simp)
    exact if_neg fun hmark => hmark.2.elim hx hX

theorem parseHex_encodeHex (pc : Pc) : parseHex (encodeHex pc) = some pc.toNat := by
  have hmark : dropHexMark (encodeHex pc) = encodeHex pc :=
    dropHexMark_of_no_mark fun b hb => (digitsOf_bytes (by decide) (by decide) hb).2.2
  rw [parseHex, hmark]
  exact parseDigits_digitsOf (fun d hd => (digitByte_hex ⟨d, hd⟩).1) pc.isLt

/-- Digits without a sign are a number that is not negative. -/
theorem parseInt_digitsOf {fuel n : Nat} (hn : n < 10 ^ (fuel + 1)) : parseInt (digitsOf 10 fuel n) = some (n : Int) := by
  have hvalue := parseDigits_digitsOf (fun d hd => digitByte_dec ⟨d, hd⟩) hn
  cases hl : digitsOf 10 fuel n with
  | nil => exact absurd hl (digitsOf_ne_nil 10 fuel n)
  | cons b bs =>
    have hb : b ≠ 45 := (digitsOf_bytes (base := 10) (fuel := fuel) (n := n) (by decide) (by decide) (by simp [hl])).2.1
    rw [hl] at hvalue
    rw [parseInt, if_neg hb, hvalue]
    rfl

theorem parseInt_encodeReg (f : RegField) : parseInt (encodeReg f) = some (regNumber f) := by
  cases f with
  | none => decide
  | some r =>
    have hr : r.val < 67 := r.isLt
    exact parseInt_digitsOf (by omega)

theorem parseInt_encodeOp (t : OpType) : parseInt (encodeOp t) = some (t.code : Int) := by cases t <;> decide

theorem isField_encodeHex (pc : Pc) : IsField (encodeHex pc) := isField_digitsOf (by decide) (by decide) 15 pc.toNat

theorem isField_encodeOp (t : OpType) : IsField (encodeOp t) := by cases t <;> exact ⟨by decide, by decide⟩

theorem isField_encodeReg (f : RegField) : IsField (encodeReg f) := by
  cases f with
  | none => exact ⟨by decide, by decide⟩
  | some r => exact isField_digitsOf (by decide) (by decide) 1 r.val

/-! The line -/

/-- The encoded line has the five fields of the instruction. -/
theorem splitFields_encode (i : Instr) :
    splitFields (encode i) [] = [encodeHex i.pc, encodeOp i.op, encodeReg i.dst, encodeReg i.src1, encodeReg i.src2] := by
  rw [encode, (isField_encodeHex i.pc).splitFields_blank, (isField_encodeOp i.op).splitFields_blank,
    (isField_encodeReg i.dst).splitFields_blank, (isField_encodeReg i.src1).splitFields_blank,
    (isField_encodeReg i.src2).splitFields_last]

theorem Instr.ofFields_fields (i : Instr) : Instr.ofFields i.op i.pc i.dst i.src1 i.src2 = i := by cases i <;> rfl

theorem Instr.ofRaw_toRaw (i : Instr) : Instr.ofRaw i.toRaw = some i := by
  rw [Instr.toRaw, Instr.ofRaw_ofFields, Instr.ofFields_fields]

/-- The decoder on a line of five fields that parse (rules R80, R85). -/
theorem decodeLine_of_five {line f1 f2 f3 f4 f5 : List Byte} {r : RawRecord}
    (hline : splitFields line [] = [f1, f2, f3, f4, f5]) (hparse : parseFive f1 f2 f3 f4 f5 = some r) :
    decodeLine line = (Instr.ofRaw r).elim .outOfDomain .instr := by
  rw [decodeLine, hline]
  simp only [decodeFields, hparse, List.isEmpty_nil, if_true]
  cases Instr.ofRaw r <;> rfl

theorem parseFive_encode (i : Instr) :
    parseFive (encodeHex i.pc) (encodeOp i.op) (encodeReg i.dst) (encodeReg i.src1) (encodeReg i.src2) = some i.toRaw := by
  simp [parseFive, parseHex_encodeHex, parseInt_encodeOp, parseInt_encodeReg, Instr.toRaw]

theorem decodeLine_encode (i : Instr) : decodeLine (encode i) = .instr i := by
  rw [decodeLine_of_five (splitFields_encode i) (parseFive_encode i), Instr.ofRaw_toRaw, Option.elim_some]

/-- Settles O2: the encoded line splits into its five fields, each of which parses to the number it was written from. -/
theorem decodeEncodeRoundTrip : Obligations.DecodeEncodeRoundTrip := decodeLine_encode

/-! The line as one number -/

theorem wordBytes_lineWord (l : List Byte) : wordBytes l.length (lineWord l) = l := by
  induction l with
  | nil => rfl
  | cons b l ih =>
    have hb : b.toNat < 256 := b.isLt
    have hrest : (b.toNat + 256 * lineWord l) / 256 = lineWord l := by omega
    have hbyte : BitVec.ofNat 8 (b.toNat + 256 * lineWord l) = b := by
      apply BitVec.eq_of_toNat_eq
      rw [BitVec.toNat_ofNat]
      omega
    simp only [List.length_cons, lineWord, wordBytes, hrest, hbyte, ih]

/-- Settles O3: the bytes of the word are the line, and the line decodes to the instruction. -/
theorem tableWordRoundTrip : Obligations.TableWordRoundTrip := by
  intro i
  rw [decodeTableWord, Nat.mul_div_cancel_left _ (by decide), wordBytes_lineWord, decodeLine_encode]

/-! What a decoded line consists of -/

theorem opOfNumber_eq_some {v : Int} {t : OpType} (h : opOfNumber v = some t) : (t.code : Int) = v := by
  unfold opOfNumber at h
  split at h
  next hv => cases h; exact hv.symm
  next =>
    split at h
    next hv => cases h; exact hv.symm
    next =>
      split at h
      next hv => cases h; exact hv.symm
      next => cases h

theorem regOfNumber_eq_some {v : Int} {f : RegField} (h : regOfNumber v = some f) : regNumber f = v := by
  unfold regOfNumber at h
  split at h
  next hv => cases h; exact hv.symm
  next =>
    split at h
    next hv =>
      cases h
      rw [regNumber_some]
      exact Int.toNat_of_nonneg hv.1
    next => cases h

/-- The numbers of a record are those of the instruction made of it (rules R81 to R83). -/
theorem Instr.toRaw_of_ofRaw {r : RawRecord} {i : Instr} (h : Instr.ofRaw r = some i) : i.toRaw = r := by
  obtain ⟨pc, op, dst, src1, src2⟩ := r
  unfold Instr.ofRaw at h
  split at h
  next hpc =>
    have hlt : pc < 2 ^ 64 := of_decide_eq_true hpc
    split at h
    next o d a b ho hd ha hb =>
      obtain rfl := Option.some.inj h
      have hfields : (Instr.ofFields o (BitVec.ofNat 64 pc) d a b).toRaw =
          ⟨(BitVec.ofNat 64 pc).toNat, o.code, regNumber d, regNumber a, regNumber b⟩ := by cases o <;> rfl
      rw [hfields, opOfNumber_eq_some ho, regOfNumber_eq_some hd, regOfNumber_eq_some ha, regOfNumber_eq_some hb,
        BitVec.toNat_ofNat, Nat.mod_eq_of_lt hlt]
    next => cases h
  next => cases h

/-- Settles O4: of the shapes a list of fields can have, only five fields that parse give an instruction. -/
theorem decodedLineHasItsFields : Obligations.DecodedLineHasItsFields := by
  intro line i h
  unfold decodeLine decodeFields at h
  split at h
  next f1 f2 f3 f4 f5 more hline =>
    split at h
    next => cases h
    next r hparse =>
      split at h
      next hmore =>
        obtain rfl := List.isEmpty_iff.mp hmore
        split at h
        next j hraw =>
          cases h
          exact ⟨f1, f2, f3, f4, f5, hline, hparse.trans (congrArg some (Instr.toRaw_of_ofRaw hraw).symm)⟩
        next => cases h
      next => cases h
  next => cases h

theorem opOfNumber_isSome (v : Int) : (opOfNumber v).isSome = opTypeInDomain v := by
  unfold opOfNumber opTypeInDomain
  split
  next h => simp [h]
  next h0 =>
    split
    next h => simp [h]
    next h1 =>
      split
      next h => simp [h]
      next h2 => simp [h0, h1, h2]

theorem regOfNumber_isSome (v : Int) : (regOfNumber v).isSome = regInDomain v := by
  rw [Bool.eq_iff_iff]
  simp only [regInDomain, Bool.and_eq_true, decide_eq_true_eq]
  unfold regOfNumber
  split
  next h => simp only [Option.isSome_some, true_iff]; omega
  next h =>
    split
    next hv => simp only [Option.isSome_some, true_iff]; omega
    next hv => simp only [Option.isSome_none, Bool.false_eq_true, false_iff]; omega

/-- A record is an instruction exactly where its five fields lie in their domains (rule R85). -/
theorem Instr.ofRaw_isSome (r : RawRecord) : (Instr.ofRaw r).isSome = r.wellFormed := by
  rw [RawRecord.wellFormed, ← opOfNumber_isSome, ← regOfNumber_isSome, ← regOfNumber_isSome, ← regOfNumber_isSome]
  unfold Instr.ofRaw
  split
  next hpc =>
    rw [hpc, Bool.true_and]
    split
    next o d a b ho hd ha hb => simp [ho, hd, ha, hb]
    next hnone =>
      cases ho : opOfNumber r.opType with
      | none => simp
      | some o =>
        cases hd : regOfNumber r.destReg with
        | none => simp
        | some d =>
          cases ha : regOfNumber r.src1Reg with
          | none => simp
          | some a =>
            cases hb : regOfNumber r.src2Reg with
            | none => simp
            | some b => exact absurd hb (hnone o d a b ho hd ha)
  next hpc => simp [hpc]

/-- Settles O5: five fields that parse are an instruction exactly where the record is well formed, and its numbers are then those of
the record. -/
theorem outOfDomainIsRefused : Obligations.OutOfDomainIsRefused := by
  intro line f1 f2 f3 f4 f5 r hline hparse
  have hdomain := Instr.ofRaw_isSome r
  rw [decodeLine_of_five hline hparse]
  cases hraw : Instr.ofRaw r with
  | none =>
    rw [hraw] at hdomain
    exact ⟨fun _ => rfl, fun hwf => by simp [hwf] at hdomain⟩
  | some i =>
    rw [hraw] at hdomain
    exact ⟨fun hwf => by simp [hwf] at hdomain, fun _ => ⟨i, rfl, Instr.toRaw_of_ofRaw hraw⟩⟩

/-- Settles O1: the decoder runs on the five lines. -/
theorem writtenLinesDecode : Obligations.WrittenLinesDecode :=
  ⟨by decide, by decide, by decide, by decide, by decide⟩

end Sys2Proof
end

section
/-!
PROOFS. The meanings of the three classes (rules R87, R100 to R103, R121), and O7 to O9.
-/

namespace Sys2Proof.Machine

/-- Fetch may take a record (rule R120). -/
theorem State.fetchOpen_iff (s : State) : s.fetchOpen = true ↔ s.traceDone = false ∧ s.de.length < s.cfg.width := by
  simp [State.fetchOpen, State.room_iff]

/-- A record taken by an open Fetch enters DE and advances the sequence counter (rules R87, R121). -/
theorem State.fetchOne_of_open {s : State} (h : s.fetchOpen = true) (op : OpType) (pc : Pc) (d a b : RegField) :
    s.fetchOne op pc d a b = { s with
      de := s.de ++ [InsRec.create op pc d a b s.seqNext s.cycle], seqNext := s.seqNext + 1 } := by
  simp [State.fetchOne, h]

/-- A closed Fetch does nothing (rule R120). -/
theorem State.fetchOne_of_closed {s : State} (h : s.fetchOpen = false) (op : OpType) (pc : Pc) (d a b : RegField) :
    s.fetchOne op pc d a b = s := by
  simp [State.fetchOne, h]

/-- Settles O7: each class is the entry of its record, which an open Fetch makes. -/
theorem eachClassEntersDecodeBuffer : Obligations.EachClassEntersDecodeBuffer := by
  intro pc d a b s hlatch hroom
  have hopen : s.fetchOpen = true := s.fetchOpen_iff.mpr ⟨hlatch, hroom⟩
  refine ⟨?_, ?_, ?_⟩ <;> rw [exec_eq, State.fetchOne_of_open hopen] <;> rfl

/-- Settles O8: each class is the entry of its record, which a closed Fetch does not make. -/
theorem eachClassWaitsAtFullBuffer : Obligations.EachClassWaitsAtFullBuffer := by
  intro pc d a b s h
  have hclosed : s.fetchOpen = false := by
    rw [← Bool.not_eq_true, s.fetchOpen_iff]
    rintro ⟨hlatch, hroom⟩
    rcases h with hdone | hfull
    · simp [hlatch] at hdone
    · omega
  refine ⟨?_, ?_, ?_⟩ <;> rw [exec_eq, State.fetchOne_of_closed hclosed]

/-- Settles O9: an instruction enters DE at its end or does nothing. -/
theorem eachClassFrame : Obligations.EachClassFrame := by
  intro i s t h
  rw [exec_eq] at h
  obtain rfl := Host.Outcome.next.inj h
  refine ⟨rfl, ?_⟩
  cases hopen : s.fetchOpen with
  | true =>
    rw [State.fetchOne_de_of_open hopen]
    exact List.prefix_append _ _
  | false => rw [State.fetchOne_of_closed hopen]

end Sys2Proof.Machine
end

section
/-!
PROOFS. The read loop of Fetch, round by round (rules R84, R85, R120, R121): what each answer of the trace port makes of it, what it
takes, when it is refused, and O6, O10, O14, O16 to O18, O20.
-/

namespace Sys2Proof.Machine

/-! One round -/

theorem fetchLoop_of_full {s : State} (hroom : s.room s.de = false) (n : Nat) : fetchLoop n s = .next s := by
  cases n with
  | zero => rfl
  | succ n => simp [fetchLoop, hroom]

section
variable {s : State} (hroom : s.room s.de = true) (n : Nat)
include hroom

theorem fetchLoop_succ_of_record {i : Instr} (h : traceAnswer s.trace = .instr i) :
    fetchLoop (n + 1) s = fetchLoop n (s.consume.fetchOne i.op i.pc i.dst i.src1 i.src2) := by
  simp [fetchLoop, hroom, h, exec_eq, andThen]

theorem fetchLoop_succ_of_end (h : traceAnswer s.trace = .endOfStream) : fetchLoop (n + 1) s = .next s.latchEnd := by
  simp [fetchLoop, hroom, h]

theorem fetchLoop_succ_of_outOfDomain (h : traceAnswer s.trace = .outOfDomain) :
    fetchLoop (n + 1) s = .refused .outOfDomainRecord := by
  simp [fetchLoop, hroom, h]

theorem fetchLoop_succ_of_surplusFields (h : traceAnswer s.trace = .surplusFields) :
    fetchLoop (n + 1) s = .refused .surplusFields := by
  simp [fetchLoop, hroom, h]

end

theorem fetch_of_open {s : State} (h : s.traceDone = false) : fetch s = fetchLoop s.cfg.width s := by
  simp [fetch, h]

/-- The state after Fetch has taken one delivered record. -/
def State.take (s : State) (i : Instr) : State := s.consume.fetchOne i.op i.pc i.dst i.src1 i.src2

theorem State.take_eq {s : State} (hlatch : s.traceDone = false) (hroom : s.room s.de = true) (i : Instr) :
    s.take i = { s with
      de := s.de ++ [InsRec.create i.op i.pc i.dst i.src1 i.src2 s.seqNext s.cycle]
      seqNext := s.seqNext + 1
      trace := s.trace.tail } :=
  State.fetchOne_of_open (s := s.consume) (s.consume.fetchOpen_iff.mpr ⟨hlatch, s.room_iff s.de |>.mp hroom⟩) ..

/-- The trace port answers with the first line that is left. -/
theorem traceAnswer_eq_some_line {trace : List TraceLine} {d : Decoded} (h : traceAnswer trace = d) (hd : d ≠ .endOfStream) :
    ∃ line rest, trace = line :: rest ∧ decodeLine line = d := by
  cases trace with
  | nil => exact absurd h.symm hd
  | cons line rest => exact ⟨line, rest, rfl, h⟩

/-! A line that ends the stream -/

/-- Fewer than five fields, or five of which one does not parse: the decoder answers `end` (rules R84, R202). -/
theorem decodeLine_of_short {line : TraceLine}
    (h : (splitFields line []).length < 5 ∨
      ∃ f1 f2 f3 f4 f5 more, splitFields line [] = f1 :: f2 :: f3 :: f4 :: f5 :: more ∧ parseFive f1 f2 f3 f4 f5 = none) :
    decodeLine line = .endOfStream := by
  rcases h with hlen | ⟨f1, f2, f3, f4, f5, more, hfields, hparse⟩
  · unfold decodeLine decodeFields
    split
    next hfields =>
      simp only [hfields, List.length_cons] at hlen
      omega
    next => rfl
  · simp [decodeLine, decodeFields, hfields, hparse]

/-- Settles O6: the trace port answers `end` for the line as it does for no line, and the latch drops what is left. -/
theorem shortLineEndsStream : Obligations.ShortLineEndsStream := by
  intro line rest s hshort hcfg hlatch hroom
  have hwidth : s.cfg.width = (s.cfg.width - 1) + 1 := by
    simp only [Config.wellFormed, Bool.and_eq_true, decide_eq_true_eq] at hcfg
    omega
  have hend (trace : List TraceLine) (h : traceAnswer trace = .endOfStream) :
      fetch { s with trace := trace } = .next s.latchEnd := by
    rw [fetch_of_open (s := { s with trace := trace }) hlatch]
    show fetchLoop s.cfg.width _ = _
    rw [hwidth, fetchLoop_succ_of_end (s := { s with trace := trace }) hroom _ h]
    rfl
  have hline := hend (line :: rest) (decodeLine_of_short hshort)
  exact ⟨hline.trans (hend [] rfl).symm, s.latchEnd, hline, rfl, rfl, rfl⟩

/-! The step that runs an instruction -/

theorem State.continues_of_open {s : State} (h : s.traceDone = false) : s.continues = true := by
  simp [State.continues, h]

/-- Settles O10: a running driver makes a tick, whose Fetch finds the line first. -/
theorem stepRunsDecodedInstruction : Obligations.StepRunsDecodedInstruction := by
  intro s line rest i hcfg hlatch htrace hline hroom
  have hwidth : s.cfg.width = (s.cfg.width - 1) + 1 := by omega
  have hopen : s.stages.traceDone = false := s.stages_traceDone.trans hlatch
  have hroom' : s.stages.room s.stages.de = true := (s.stages.room_iff _).mpr (by rwa [s.stages_cfg])
  have hanswer : traceAnswer s.stages.trace = .instr i := by rw [s.stages_trace, htrace]; exact hline
  have hconsume : s.stages.consume = { s.stages with trace := rest } := by
    rw [State.consume, s.stages_trace, htrace]
    rfl
  rw [step_eq_tick hcfg (State.continues_of_open hlatch), tick, fetch_of_open hopen, s.stages_cfg, hwidth,
    fetchLoop_succ_of_record hroom' _ hanswer, exec_eq, ← hconsume]
  rfl

/-! No step changes the configuration, and a stopped engine stays -/

theorem fetch_cfg {s t : State} (h : fetch s = .next t) : t.cfg = s.cfg := by rw [fetch_frame h]

theorem step_cfg {s t : State} (h : step s = .next t) : t.cfg = s.cfg := by
  obtain ⟨-, ⟨-, rfl⟩ | ⟨-, u, hu, rfl⟩⟩ := step_cases h
  · rfl
  · exact (fetch_cfg hu).trans s.stages_cfg

/-- Settles O14: neither the eight stages nor Fetch write the configuration. -/
theorem configurationIsConstant : Obligations.ConfigurationIsConstant := fun _ _ h => step_cfg h

/-- Settles O18: `done` says that the driver has stopped. -/
theorem stoppedEngineStays : Obligations.StoppedEngineStays := by
  intro s hcfg hdone
  exact step_of_stopped hcfg (by simpa [State.done] using hdone)

/-! What Fetch takes -/

/-- What `n` rounds of Fetch's loop make of `s`: the instructions `l` of the lines `lines` are taken, `rest` is not read. -/
structure Takes (n : Nat) (s t : State) (l : List Instr) (lines rest : List TraceLine) : Prop where
  trace : s.trace = lines ++ rest
  decoded : lines.map decodeLine = l.map .instr
  limit : l.length ≤ n
  room : l.length ≤ s.cfg.width - s.de.length
  result : t = { s with
    de := s.de ++ l.zipIdx.map fun p => InsRec.create p.1.op p.1.pc p.1.dst p.1.src1 p.1.src2 (s.seqNext + p.2) s.cycle
    seqNext := s.seqNext + l.length
    traceDone := t.traceDone
    trace := t.trace }
  stop : (t.traceDone = true ∧ t.trace = [] ∧ traceAnswer rest = .endOfStream) ∨
    (t.traceDone = false ∧ t.trace = rest ∧ (l.length = n ∨ s.cfg.width ≤ t.de.length))

/-- Nothing more is taken: the limit is reached or DE is full. -/
theorem Takes.nothing {n : Nat} {s : State} (hlatch : s.traceDone = false) (h : n = 0 ∨ s.cfg.width ≤ s.de.length) :
    Takes n s s [] [] s.trace where
  trace := rfl
  decoded := rfl
  limit := Nat.zero_le n
  room := Nat.zero_le _
  result := by simp
  stop := .inr ⟨hlatch, rfl, h.imp Eq.symm id⟩

/-- Nothing more is taken: the stream ends. -/
theorem Takes.ended {n : Nat} {s : State} (h : traceAnswer s.trace = .endOfStream) : Takes n s s.latchEnd [] [] s.trace where
  trace := rfl
  decoded := rfl
  limit := Nat.zero_le n
  room := Nat.zero_le _
  result := by simp [State.latchEnd]
  stop := .inl ⟨rfl, rfl, h⟩

/-- One record is taken, and then the rest. -/
theorem Takes.cons {n : Nat} {s t : State} {i : Instr} {l : List Instr} {line : TraceLine} {lines rest : List TraceLine}
    (hlatch : s.traceDone = false) (hroom : s.room s.de = true) (htrace : s.trace = line :: (lines ++ rest))
    (hline : decodeLine line = .instr i) (h : Takes n (s.take i) t l lines rest) :
    Takes (n + 1) s t (i :: l) (line :: lines) rest := by
  have htake := State.take_eq hlatch hroom i
  have hlt := (s.room_iff s.de).mp hroom
  rw [htake] at h
  obtain ⟨-, hdecoded, hlimit, hbound, hresult, hstop⟩ := h
  refine ⟨htrace, by simp [hdecoded, hline], by simpa using hlimit, ?_, ?_, ?_⟩
  · simp only [List.length_append, List.length_cons] at hbound ⊢
    omega
  · rw [hresult]
    simp [List.zipIdx_cons, List.zipIdx_succ, Function.comp_def, Nat.add_assoc, Nat.add_comm 1]
  · simpa using hstop

theorem fetchLoop_takes {n : Nat} {s t : State} (hlatch : s.traceDone = false) (h : fetchLoop n s = .next t) :
    ∃ l lines rest, Takes n s t l lines rest := by
  induction n generalizing s with
  | zero =>
    cases h
    exact ⟨[], [], _, .nothing hlatch (.inl rfl)⟩
  | succ n ih =>
    rcases fetchLoop_succ_cases h with ⟨hroom, rfl⟩ | ⟨hroom, hend, rfl⟩ | ⟨hroom, i, hrec, hrest⟩
    · exact ⟨[], [], _, .nothing hlatch (.inr (by simpa [State.room] using hroom))⟩
    · exact ⟨[], [], _, .ended hend⟩
    · obtain ⟨line, lines', htrace, hline⟩ := traceAnswer_eq_some_line hrec (by simp)
      obtain ⟨l, lines, rest, htakes⟩ := ih (s := s.take i) hlatch hrest
      have htail : lines' = lines ++ rest := by rw [← htakes.trace, State.take_eq hlatch hroom, htrace]; rfl
      exact ⟨i :: l, line :: lines, rest, htakes.cons hlatch hroom (htail ▸ htrace) hline⟩

theorem fetch_takes {s t : State} (hlatch : s.traceDone = false) (h : fetch s = .next t) :
    ∃ l lines rest, Takes s.cfg.width s t l lines rest :=
  fetchLoop_takes hlatch ((fetch_of_open hlatch).symm.trans h)

/-- Settles O20: what the rounds of Fetch's loop take, with `WIDTH` as the limit. -/
theorem fetchTakesAGroup : Obligations.FetchTakesAGroup := by
  intro s t hlatch h
  obtain ⟨l, lines, rest, htrace, hdecoded, hlimit, hroom, hresult, hstop⟩ := fetch_takes hlatch h
  exact ⟨l, lines, rest, htrace, hdecoded, hlimit, hroom, hresult, hstop⟩

/-! In-domain lines -/

theorem decodeLine_of_inDomain {line : TraceLine} (h : lineInDomain line = true) :
    (∃ i, decodeLine line = .instr i) ∨ decodeLine line = .endOfStream := by
  unfold lineInDomain at h
  split at h
  next i hi => exact .inl ⟨i, hi⟩
  next hend => exact .inr hend
  next => cases h
  next => cases h

theorem traceAnswer_of_inDomain {trace : List TraceLine} (h : ∀ line ∈ trace, lineInDomain line = true) :
    (∃ i, traceAnswer trace = .instr i) ∨ traceAnswer trace = .endOfStream := by
  cases trace with
  | nil => exact .inr rfl
  | cons line rest => exact decodeLine_of_inDomain (h line (List.mem_cons_self ..))

theorem fetchLoop_of_inDomain (n : Nat) {s : State} (h : ∀ line ∈ s.trace, lineInDomain line = true) :
    ∃ t, fetchLoop n s = .next t ∧ ∀ line ∈ t.trace, lineInDomain line = true := by
  induction n generalizing s with
  | zero => exact ⟨s, rfl, h⟩
  | succ n ih =>
    cases hroom : s.room s.de with
    | false => exact ⟨s, fetchLoop_of_full hroom _, h⟩
    | true =>
      rcases traceAnswer_of_inDomain h with ⟨i, hi⟩ | hend
      · rw [fetchLoop_succ_of_record hroom n hi]
        exact ih fun line hline => h line (List.mem_of_mem_tail hline)
      · exact ⟨s.latchEnd, fetchLoop_succ_of_end hroom n hend, List.forall_mem_nil _⟩

theorem fetch_of_inDomain {s : State} (h : ∀ line ∈ s.trace, lineInDomain line = true) :
    ∃ t, fetch s = .next t ∧ ∀ line ∈ t.trace, lineInDomain line = true := by
  cases hlatch : s.traceDone with
  | true => exact ⟨s, fetch_of_traceDone hlatch, h⟩
  | false =>
    rw [fetch_of_open hlatch]
    exact fetchLoop_of_inDomain s.cfg.width h

theorem step_of_inDomain {s : State} (hcfg : s.cfg.wellFormed = true) (h : ∀ line ∈ s.trace, lineInDomain line = true) :
    ∃ t, step s = .next t ∧ ∀ line ∈ t.trace, lineInDomain line = true := by
  cases hgo : s.continues with
  | false => exact ⟨s, step_of_stopped hcfg hgo, h⟩
  | true =>
    obtain ⟨u, hu, htrace⟩ := fetch_of_inDomain (s := s.stages) (by simpa using h)
    exact ⟨u.advance, step_of_continues hcfg hgo hu, htrace⟩

/-- Settles O16: only Fetch can be refused, and an in-domain line is a record or ends the stream. -/
theorem inDomainStepSucceeds : Obligations.InDomainStepSucceeds := fun _ hcfg h => step_of_inDomain hcfg h

/-! Refusals -/

/-- The trace port refuses the answer `d` of the decoder, for the reason `r` (rules R80, R85). -/
def Refuses (r : Refusal) (d : Decoded) : Prop :=
  (r = .outOfDomainRecord ∧ d = .outOfDomain) ∨ (r = .surplusFields ∧ d = .surplusFields)

/-- Among the next `n` reads of Fetch the `k`-th meets a line that is refused for the reason `r`, after records only and with room
left in DE. -/
def State.RefusedWithin (s : State) (n : Nat) (r : Refusal) : Prop :=
  ∃ k line, k < n ∧ s.de.length + k < s.cfg.width ∧ (∀ j, j < k → ∃ l i, s.trace[j]? = some l ∧ decodeLine l = .instr i) ∧
    s.trace[k]? = some line ∧ Refuses r (decodeLine line)

theorem State.not_refusedWithin_of_full {s : State} (n : Nat) (hroom : s.room s.de = false) (r : Refusal) :
    ¬ s.RefusedWithin n r := by
  rintro ⟨k, -, -, hlen, -⟩
  have : s.room s.de = true := (s.room_iff s.de).mpr (by omega)
  simp [this] at hroom

/-- A delivered record takes one read and one place of DE. -/
theorem State.refusedWithin_succ_of_record {s : State} {i : Instr} {r : Refusal} (n : Nat) (hlatch : s.traceDone = false)
    (hroom : s.room s.de = true) (hrec : traceAnswer s.trace = .instr i) :
    s.RefusedWithin (n + 1) r ↔ (s.take i).RefusedWithin n r := by
  obtain ⟨line, rest, htrace, hline⟩ := traceAnswer_eq_some_line hrec (by simp)
  rw [State.take_eq hlatch hroom]
  simp only [State.RefusedWithin, htrace, List.tail_cons, List.length_append, List.length_singleton]
  constructor
  · rintro ⟨_ | k, l, hk, hlen, hrecs, hl, href⟩
    · obtain rfl : line = l := by simpa using hl
      simp [Refuses, hline] at href
    · exact ⟨k, l, by omega, by omega, fun j hj => by simpa using hrecs (j + 1) (by omega), by simpa using hl, href⟩
  · rintro ⟨k, l, hk, hlen, hrecs, hl, href⟩
    refine ⟨k + 1, l, by omega, by omega, fun j hj => ?_, by simpa using hl, href⟩
    cases j with
    | zero => exact ⟨line, i, rfl, hline⟩
    | succ j => simpa using hrecs j (by omega)

/-- Where the next answer of the port is no record, the next read decides. -/
theorem State.refusedWithin_succ_of_no_record {s : State} {r : Refusal} (n : Nat) (hroom : s.room s.de = true)
    (hrec : ∀ i, traceAnswer s.trace ≠ .instr i) : s.RefusedWithin (n + 1) r ↔ Refuses r (traceAnswer s.trace) := by
  constructor
  · rintro ⟨k, line, -, -, hrecs, hl, href⟩
    cases htrace : s.trace with
    | nil => simp [htrace] at hl
    | cons head rest =>
      rw [htrace] at hrec hrecs hl
      cases k with
      | zero =>
        obtain rfl : head = line := by simpa using hl
        exact href
      | succ k =>
        obtain ⟨l, i, hl, hi⟩ := hrecs 0 k.succ_pos
        obtain rfl : head = l := by simpa using hl
        exact absurd hi (hrec i)
  · intro h
    obtain ⟨line, rest, htrace, hline⟩ := traceAnswer_eq_some_line rfl fun hend : traceAnswer s.trace = _ => by
      simp [Refuses, hend] at h
    exact ⟨0, line, n.succ_pos, (s.room_iff s.de).mp hroom, fun _ hj => absurd hj (Nat.not_lt_zero _), by simp [htrace],
      hline ▸ h⟩

/-- Fetch's loop is refused exactly for a line that the port refuses among those it reads. -/
theorem fetchLoop_refused_iff {n : Nat} {s : State} {r : Refusal} (hlatch : s.traceDone = false) :
    fetchLoop n s = .refused r ↔ s.RefusedWithin n r := by
  induction n generalizing s with
  | zero => simp [fetchLoop, State.RefusedWithin]
  | succ n ih =>
    cases hroom : s.room s.de with
    | false => simp [fetchLoop_of_full hroom, State.not_refusedWithin_of_full _ hroom]
    | true =>
      cases hans : traceAnswer s.trace with
      | instr i =>
        rw [fetchLoop_succ_of_record hroom n hans, State.refusedWithin_succ_of_record n hlatch hroom hans]
        exact ih hlatch
      | endOfStream =>
        simp [State.refusedWithin_succ_of_no_record, fetchLoop_succ_of_end, hroom, hans, Refuses]
      | outOfDomain =>
        simp [State.refusedWithin_succ_of_no_record, fetchLoop_succ_of_outOfDomain, hroom, hans, Refuses, eq_comm]
      | surplusFields =>
        simp [State.refusedWithin_succ_of_no_record, fetchLoop_succ_of_surplusFields, hroom, hans, Refuses, eq_comm]

theorem andThen_next_refused {o : Host.Outcome State Fault Refusal} {f : State → State} {r : Refusal} :
    andThen o (fun t => .next (f t)) = .refused r ↔ o = .refused r := by
  cases o <;> simp [andThen]

/-- A step of a well-formed configuration is refused exactly where Fetch meets such a line. -/
theorem step_refused_iff {s : State} {r : Refusal} (hcfg : s.cfg.wellFormed = true) :
    step s = .refused r ↔ s.traceDone = false ∧ s.stages.RefusedWithin s.cfg.width r := by
  cases hlatch : s.traceDone with
  | true =>
    have hfetch : fetch s.stages = .next s.stages := fetch_of_traceDone (s.stages_traceDone.trans hlatch)
    cases hgo : s.continues with
    | true => simp [step_of_continues hcfg hgo hfetch]
    | false => simp [step_of_stopped hcfg hgo]
  | false =>
    have hopen : s.stages.traceDone = false := s.stages_traceDone.trans hlatch
    rw [step_eq_tick hcfg (State.continues_of_open hlatch), tick, andThen_next_refused, fetch_of_open hopen,
      fetchLoop_refused_iff hopen, s.stages_cfg]
    simp

/-- Settles O17: a zero parameter is tested first, and of a tick only Fetch is refused. -/
theorem refusalsHaveTheirReason : Obligations.RefusalsHaveTheirReason := by
  have hzero (s : State) (hcfg : s.cfg.wellFormed = false) : step s = .refused .zeroParameter := by
    simp [step, driverStep, hcfg]
  refine ⟨hzero, fun s k line hcfg hlatch hroom hrecs hline => ?_, fun s r h => ?_⟩
  · have hwithin {r : Refusal} (href : Refuses r (decodeLine line)) : step s = .refused r :=
      (step_refused_iff hcfg).mpr ⟨hlatch, k, line, by omega, by simpa using hroom, by simpa using hrecs, by simpa using hline, href⟩
    exact ⟨fun h => hwithin (.inl ⟨rfl, h⟩), fun h => hwithin (.inr ⟨rfl, h⟩)⟩
  · cases hcfg : s.cfg.wellFormed with
    | false => exact .inl ⟨(Host.Outcome.refused.inj ((hzero s hcfg).symm.trans h)).symm, rfl⟩
    | true =>
      obtain ⟨hlatch, k, line, -, hroom, hrecs, hline, href⟩ := (step_refused_iff hcfg).mp h
      exact .inr ⟨k, line, hlatch, by simpa using hroom, by simpa using hrecs, by simpa using hline, href⟩

/-! A placed line -/

/-- With nothing left in the trace source Fetch's loop takes nothing. -/
theorem fetchLoop_of_trace_nil (n : Nat) {s : State} (h : s.trace = []) :
    ∃ t, fetchLoop n s = .next t ∧ t.de = s.de ∧ t.seqNext = s.seqNext := by
  cases n with
  | zero => exact ⟨s, rfl, rfl, rfl⟩
  | succ n =>
    cases hroom : s.room s.de with
    | false => exact ⟨s, fetchLoop_of_full hroom _, rfl, rfl⟩
    | true => exact ⟨s.latchEnd, fetchLoop_succ_of_end hroom n (by rw [h]; rfl), rfl, rfl⟩

/-- Nothing in DE: none of the eight stages puts anything there. -/
theorem State.stages_de_nil {s : State} (h : s.de = []) : s.stages.de = [] := by
  simp [State.stages, State.decode_eq, stampAll, h]

/-- What the next tick finds of a placed line: it is the only line left, and DE has room for it when Fetch runs (log 3, log 16). -/
structure Placed (s u : State) (line : TraceLine) : Prop where
  cfg : u.cfg = s.cfg
  cycle : u.cycle = s.cycle
  seqNext : u.seqNext = s.seqNext
  traceDone : u.traceDone = false
  trace : u.trace = [line]
  room : u.stages.de.length < s.cfg.width

theorem State.withLine_placed {s : State} (hcfg : s.cfg.wellFormed = true) (line : TraceLine) : Placed s (s.withLine line) line := by
  simp only [State.withLine]
  split
  next hroom => exact ⟨rfl, rfl, rfl, rfl, rfl, by simpa using (State.room_iff _ _).mp hroom⟩
  next =>
    refine ⟨rfl, rfl, rfl, rfl, rfl, ?_⟩
    rw [State.stages_de_nil rfl]
    simp only [Config.wellFormed, Bool.and_eq_true, decide_eq_true_eq] at hcfg
    exact hcfg.2

/-- Settles O11: Fetch of the next tick finds the line first and room for its record, and behind it nothing more to take. -/
theorem placedLineRunsNext : Obligations.PlacedLineRunsNext := by
  intro s i hcfg
  obtain ⟨hcfg', hcycle, hseq, hlatch, htrace, hroom⟩ := State.withLine_placed hcfg (encode i)
  generalize s.withLine (encode i) = u at *
  have hopen : u.stages.traceDone = false := u.stages_traceDone.trans hlatch
  have hroom' : u.stages.room u.stages.de = true := (u.stages.room_iff _).mpr (by rwa [u.stages_cfg, hcfg'])
  have hanswer : traceAnswer u.stages.trace = .instr i := by
    rw [u.stages_trace, htrace]
    exact decodeLine_encode i
  have htake := State.take_eq hopen hroom' i
  obtain ⟨t, ht, hde, hseqNext⟩ := fetchLoop_of_trace_nil (u.cfg.width - 1) (s := u.stages.take i) (by
    rw [htake, u.stages_trace, htrace]
    rfl)
  have hfetch : fetch u.stages = .next t := by
    have hwidth : u.cfg.width = (u.cfg.width - 1) + 1 := by rw [hcfg']; omega
    rw [fetch_of_open hopen, u.stages_cfg, hwidth, fetchLoop_succ_of_record hroom' _ hanswer]
    exact ht
  refine ⟨t.advance, step_of_continues (hcfg' ▸ hcfg) (State.continues_of_open hlatch) hfetch, ?_, ?_⟩
  · rw [State.advance_seqNext, hseqNext, htake, u.stages_seqNext, hseq]
  · rw [State.advance_de, hde, htake, u.stages_seqNext, u.stages_cycle, hseq, hcycle]
    exact List.getLast?_concat

end Sys2Proof.Machine
end

section
/-!
PROOFS. Issue's choice and its cap guard (rules R150, R152), the timing invariant, and O30, O32, O46.
-/

namespace Sys2Proof.Machine

/-- There is one first among the ready slots. -/
theorem IsOldestReady.unique {q : List IqSlot} {k k' : Nat} {x x' : IqSlot} (h : IsOldestReady q k x) (h' : IsOldestReady q k' x') :
    x.ins.age = x'.ins.age ∧ k = k' := by
  have hle := h.least k' x' h'.get h'.selectable
  have hge := h'.least k x h.get h.selectable
  omega

theorem oldestReady_eq_some_iff {q : List IqSlot} {a k : Nat} :
    oldestReady q = some (a, k) ↔ ∃ x, IsOldestReady q k x ∧ x.ins.age = a := by
  refine ⟨isOldestReady_of_oldestReady, fun ⟨x, hx, hage⟩ => ?_⟩
  cases ho : oldestReady q with
  | none =>
    have hsel := not_selectable_of_oldestReady_eq_none ho hx.get
    simp [hx.selectable] at hsel
  | some p =>
    obtain ⟨x', hx', hage'⟩ := isOldestReady_of_oldestReady (a := p.1) (k := p.2) ho
    obtain ⟨hages, hindex⟩ := hx.unique hx'
    rw [← hage, hages, hage', hindex]

theorem oldestReady_eq_none_iff {q : List IqSlot} : oldestReady q = none ↔ ∀ x ∈ q, x.selectable = false := by
  constructor
  · intro h x hx
    obtain ⟨k, hk⟩ := List.mem_iff_getElem?.mp hx
    exact not_selectable_of_oldestReady_eq_none h hk
  · intro h
    cases ho : oldestReady q with
    | none => rfl
    | some p =>
      obtain ⟨x, hx, -⟩ := isOldestReady_of_oldestReady (a := p.1) (k := p.2) ho
      have hsel := h x (List.mem_of_getElem? hx.get)
      simp [hx.selectable] at hsel

/-- Settles O30: `IsOldestReady` is the least pair, and there is one wherever a slot is ready. -/
theorem oldestReadyIsSelected : Obligations.OldestReadyIsSelected := by
  refine fun q => ⟨fun a k => oldestReady_eq_some_iff.trans ⟨?_, ?_⟩, oldestReady_eq_none_iff⟩
  · rintro ⟨x, hx, rfl⟩
    exact ⟨x, hx.get, hx.selectable, rfl, hx.least⟩
  · rintro ⟨x, hget, hsel, rfl, hleast⟩
    exact ⟨x, ⟨hget, hsel, hleast⟩, rfl⟩

/-- Settles O32: the guard is tested before the stamp (rule R150). -/
theorem issueGuardPrecedesStamp : Obligations.IssueGuardPrecedesStamp := by
  intro s h
  have hfull : s.exlFull = true := decide_eq_true h
  simp [State.issue, hfull]

/-- Settles O46: the step lemma of the timing invariant. -/
theorem timingIsKept : Obligations.TimingIsKept := fun _ _ => step_keeps_timed

end Sys2Proof.Machine
end

section
/-!
PROOFS. The completions of Execute (rules R157 to R162): the broadcasts of one pass taken together, what moves to WB, and O34 to
O36.
-/

namespace Sys2Proof.Machine

/-! Broadcasts of several tags -/

@[simp] theorem clearTag_nil (t : Option Nat) : clearTag [] t = t := by simp [clearTag]

theorem clearTag_wakeTag (t : Option Nat) (ts : List (Option Nat)) (src : Option Nat) :
    clearTag ts (wakeTag t src) = clearTag (t :: ts) src := by
  by_cases h : src = t <;> simp [clearTag, wakeTag, h]

/-- A tag is held after the broadcasts exactly where it was held before and not broadcast. -/
theorem clearTag_eq_some {ts : List (Option Nat)} {src : Option Nat} {t : Nat} :
    clearTag ts src = some t ↔ src = some t ∧ some t ∉ ts := by
  unfold clearTag
  split
  next hmem =>
    refine ⟨fun h => by (cases h), ?_⟩
    rintro ⟨rfl, hnot⟩
    exact absurd hmem hnot
  next hmem =>
    refine ⟨fun h => ⟨h, h ▸ hmem⟩, And.left⟩

@[simp] theorem InsRec.wakeAll_nil (i : InsRec) : i.wakeAll [] = i := by simp [InsRec.wakeAll]

theorem InsRec.wakeAll_wake (i : InsRec) (t : Option Nat) (ts : List (Option Nat)) : (i.wake t).wakeAll ts = i.wakeAll (t :: ts) := by
  simp [InsRec.wakeAll, InsRec.wake, clearTag_wakeTag]

@[simp] theorem IqSlot.wakeAll_nil (x : IqSlot) : x.wakeAll [] = x := by simp [IqSlot.wakeAll]

@[simp] theorem IqSlot.wakeAll_valid (x : IqSlot) (ts : List (Option Nat)) : (x.wakeAll ts).valid = x.valid := by
  unfold IqSlot.wakeAll
  split <;> rfl

theorem IqSlot.wakeAll_of_valid {x : IqSlot} (h : x.valid = true) (ts : List (Option Nat)) :
    x.wakeAll ts = { x with ins := x.ins.wakeAll ts } := if_pos h

theorem IqSlot.wakeAll_wake (x : IqSlot) (t : Option Nat) (ts : List (Option Nat)) : (x.wake t).wakeAll ts = x.wakeAll (t :: ts) := by
  cases h : x.valid <;> simp [IqSlot.wakeAll, IqSlot.wake, h, InsRec.wakeAll_wake]

/-! One pass -/

/-- The tags that the entries of a pass broadcast: those at 0 (rules R159, R160). -/
def doneTags (es : List ExlEntry) : List (Option Nat) := (es.filter fun e => decide (e.rem = 0)).map fun e => e.ins.dstTag

@[simp] theorem doneTags_nil : doneTags [] = [] := rfl

theorem doneTags_cons_of_done {e : ExlEntry} (h : e.rem = 0) (es : List ExlEntry) :
    doneTags (e :: es) = e.ins.dstTag :: doneTags es := by
  simp [doneTags, h]

theorem doneTags_cons_of_rest {e : ExlEntry} (h : e.rem ≠ 0) (es : List ExlEntry) : doneTags (e :: es) = doneTags es := by
  simp [doneTags, h]

theorem State.completeLoop_cons_of_done (s : State) {e : ExlEntry} (h : e.rem = 0) (es : List ExlEntry) :
    s.completeLoop (e :: es) = (s.completeOne e).completeLoop es := by
  simp [State.completeLoop, h]

theorem State.completeLoop_cons_of_rest (s : State) {e : ExlEntry} (h : e.rem ≠ 0) (es : List ExlEntry) :
    s.completeLoop (e :: es) = { s with exl := s.exl ++ [e] }.completeLoop es := by
  simp [State.completeLoop, h]

/-- What a pass writes outside EXL and WB: it broadcasts, whether or not WB has room (rules R159 to R161). -/
theorem State.completeLoop_frame (s : State) (es : List ExlEntry) :
    s.completeLoop es = { s with
      exl := (s.completeLoop es).exl
      wb := (s.completeLoop es).wb
      iq := s.iq.map fun x => x.wakeAll (doneTags es)
      di := s.di.map fun i => i.wakeAll (doneTags es)
      rr := s.rr.map fun i => i.wakeAll (doneTags es) } := by
  induction es generalizing s with
  | nil => simp [State.completeLoop]
  | cons e es ih =>
    by_cases hrem : e.rem = 0
    · rw [State.completeLoop_cons_of_done s hrem, doneTags_cons_of_done hrem, ih (s.completeOne e)]
      simp [State.completeOne, State.broadcast, Function.comp_def, InsRec.wakeAll_wake, IqSlot.wakeAll_wake]
    · rw [State.completeLoop_cons_of_rest s hrem, doneTags_cons_of_rest hrem, ih { s with exl := s.exl ++ [e] }]

/-- With room in WB for every completion of the pass those at 0 go to WB and the others stay. -/
theorem State.completeLoop_of_enough_room {s : State} {es : List ExlEntry}
    (h : s.wb.length + (es.filter fun e => decide (e.rem = 0)).length ≤ s.cfg.wbCap) :
    (s.completeLoop es).exl = s.exl ++ es.filter (fun e => decide (e.rem ≠ 0)) ∧
      (s.completeLoop es).wb = s.wb ++ (es.filter fun e => decide (e.rem = 0)).map fun e => e.finish s.cycle := by
  induction es generalizing s with
  | nil => simp [State.completeLoop]
  | cons e es ih =>
    by_cases hrem : e.rem = 0
    · simp only [hrem, decide_true, List.filter_cons_of_pos, List.length_cons] at h
      have hroom : s.wbRoom = true := decide_eq_true (by omega)
      have hwb : (s.completeOne e).wb = s.wb ++ [e.finish s.cycle] := if_pos hroom
      have hexl : (s.completeOne e).exl = s.exl := if_pos hroom
      have hrest := ih (s := s.completeOne e) (by rw [hwb, State.completeOne_cfg, List.length_append, List.length_singleton]; omega)
      rw [State.completeLoop_cons_of_done s hrem]
      simpa [hrem, hwb, hexl] using hrest
    · have hrest := ih (s := { s with exl := s.exl ++ [e] }) (by simpa [hrem] using h)
      rw [State.completeLoop_cons_of_rest s hrem]
      simpa [hrem] using hrest

/-- What Execute writes outside EXL and WB. -/
theorem State.execute_frame (s : State) :
    s.execute = { s with
      exl := s.execute.exl
      wb := s.execute.wb
      iq := s.iq.map fun x => x.wakeAll (s.completing.map fun e => e.ins.dstTag)
      di := s.di.map fun i => i.wakeAll (s.completing.map fun e => e.ins.dstTag)
      rr := s.rr.map fun i => i.wakeAll (s.completing.map fun e => e.ins.dstTag) } :=
  State.completeLoop_frame { s with exl := [] } (s.exl.map fun (e : ExlEntry) => e.countDown s.cycle)

/-- Execute where WB has room for every completion. -/
theorem State.execute_of_enough_room {s : State} (h : s.wb.length + s.completing.length ≤ 5 * s.cfg.width) :
    s.execute.exl = (s.exl.map fun e => e.countDown s.cycle).filter (fun e => decide (e.rem ≠ 0)) ∧
      s.execute.wb = s.wb ++ s.completing.map fun e => e.finish s.cycle :=
  State.completeLoop_of_enough_room (s := { s with exl := [] }) h

/-- Settles O34: the frame of Execute, and what a pass with room makes of EXL and WB. -/
theorem executeCompletesExactly : Obligations.ExecuteCompletesExactly := by
  intro s h
  obtain ⟨hexl, hwb⟩ := State.execute_of_enough_room h
  rw [s.execute_frame, hexl, hwb]
  rfl

/-! Nothing is lost -/

section
variable {α : Type} {g : InsRec → α} (hfinish : ∀ (e : ExlEntry) (c : Nat), g (e.finish c) = g e.ins)
include hfinish

/-- A pass moves entries from EXL to WB or keeps them: whatever a completion leaves of a record stays as often as it was. -/
theorem State.completeLoop_perm (s : State) (es : List ExlEntry) :
    (((s.completeLoop es).exl.map fun e => g e.ins) ++ (s.completeLoop es).wb.map g).Perm
      (((s.exl ++ es).map fun e => g e.ins) ++ s.wb.map g) := by
  induction es generalizing s with
  | nil => simp [State.completeLoop]
  | cons e es ih =>
    by_cases hrem : e.rem = 0
    · rw [State.completeLoop_cons_of_done s hrem]
      refine (ih (s.completeOne e)).trans ?_
      cases hroom : s.wbRoom with
      | true =>
        have hwb : (s.completeOne e).wb = s.wb ++ [e.finish s.cycle] := if_pos hroom
        have hexl : (s.completeOne e).exl = s.exl := if_pos hroom
        simp only [hwb, hexl, List.map_append, List.map_cons, List.map_nil, hfinish, List.append_assoc, List.cons_append]
        refine List.Perm.append_left _ ?_
        rw [← List.append_assoc]
        exact List.perm_append_singleton _ _
      | false =>
        have hwb : (s.completeOne e).wb = s.wb := if_neg (by simp [hroom])
        have hexl : (s.completeOne e).exl = s.exl ++ [{ ins := e.finish s.cycle, rem := 0 }] := if_neg (by simp [hroom])
        simp [hwb, hexl, hfinish]
    · rw [State.completeLoop_cons_of_rest s hrem]
      simpa using ih { s with exl := s.exl ++ [e] }

theorem State.execute_perm (hstamp : ∀ (i : InsRec) (c : Nat), g (i.stamp .ex c) = g i) (s : State) :
    ((s.execute.exl.map fun e => g e.ins) ++ s.execute.wb.map g).Perm ((s.exl.map fun e => g e.ins) ++ s.wb.map g) := by
  have h := State.completeLoop_perm hfinish { s with exl := [] } (s.exl.map fun (e : ExlEntry) => e.countDown s.cycle)
  rw [List.nil_append, List.map_map] at h
  have hdown : ((fun e : ExlEntry => g e.ins) ∘ fun e => e.countDown s.cycle) = fun e : ExlEntry => g e.ins :=
    funext fun e => hstamp e.ins s.cycle
  rwa [hdown] at h

end

/-- WB only grows, and only where it has room (rules R159, R161). -/
theorem State.completeLoop_wb_bound (s : State) (es : List ExlEntry) :
    s.wb <+: (s.completeLoop es).wb ∧ (s.completeLoop es).wb.length ≤ max s.wb.length (5 * s.cfg.width) := by
  induction es generalizing s with
  | nil => exact ⟨List.prefix_rfl, Nat.le_max_left _ _⟩
  | cons e es ih =>
    by_cases hrem : e.rem = 0
    · rw [State.completeLoop_cons_of_done s hrem]
      obtain ⟨hpre, hlen⟩ := ih (s.completeOne e)
      cases hroom : s.wbRoom with
      | true =>
        have hwb : (s.completeOne e).wb = s.wb ++ [e.finish s.cycle] := if_pos hroom
        have hlt : s.wb.length < 5 * s.cfg.width := of_decide_eq_true hroom
        rw [hwb] at hpre hlen
        simp only [List.length_append, List.length_singleton, State.completeOne_cfg] at hlen
        exact ⟨(List.prefix_append _ _).trans hpre, by omega⟩
      | false =>
        have hwb : (s.completeOne e).wb = s.wb := if_neg (by simp [hroom])
        rw [hwb] at hpre hlen
        exact ⟨hpre, hlen⟩
    · rw [State.completeLoop_cons_of_rest s hrem]
      exact ih { s with exl := s.exl ++ [e] }

/-- Settles O35: a pass keeps the sequence numbers and lets WB grow only where it has room. -/
theorem executeLosesNothing : Obligations.ExecuteLosesNothing := fun s =>
  ⟨State.execute_perm (g := fun i => i.seq) (fun _ _ => rfl) (fun _ _ => rfl) s,
    State.completeLoop_wb_bound { s with exl := [] } _⟩

/-! The wakeup of the same tick -/

/-- An entry in its last cycle completes (rules R158, R159). -/
theorem State.mem_completing_tags {s : State} {e : ExlEntry} (he : e ∈ s.exl) (hrem : e.rem ≤ 1) :
    e.ins.dstTag ∈ s.completing.map fun e => e.ins.dstTag := by
  have hdown : e.countDown s.cycle ∈ s.completing := by
    refine List.mem_filter.mpr ⟨List.mem_map_of_mem he, decide_eq_true ?_⟩
    show e.rem - 1 = 0
    omega
  exact List.mem_map.mpr ⟨_, hdown, rfl⟩

/-- Settles O36: every tag the entry holds is among those broadcast. -/
theorem wakeupIsSeenInTheSameTick : Obligations.WakeupIsSeenInTheSameTick := by
  intro s k x hx hvalid htags
  have hclear {src : Option Nat} (hsrc : ∀ t, src = some t → x.ins.src1Tag = some t ∨ x.ins.src2Tag = some t) :
      clearTag (s.completing.map fun e => e.ins.dstTag) src = none := by
    refine Option.eq_none_iff_forall_ne_some.mpr fun t ht => ?_
    obtain ⟨hheld, hnot⟩ := clearTag_eq_some.mp ht
    obtain ⟨e, he, hrem, htag⟩ := htags t (hsrc t hheld)
    exact hnot (htag ▸ State.mem_completing_tags he hrem.le)
  refine ⟨x.wakeAll (s.completing.map fun e => e.ins.dstTag), ?_, ?_, ?_, ?_⟩
  · rw [s.execute_frame]
    simp [hx]
  · rw [IqSlot.wakeAll_of_valid hvalid, IqSlot.selectable_iff]
    exact ⟨hvalid, hclear fun t => .inl, hclear fun t => .inr⟩
  · rw [IqSlot.wakeAll_of_valid hvalid]
    rfl
  · rw [IqSlot.wakeAll_of_valid hvalid]
    rfl

end Sys2Proof.Machine
end

section
/-!
PROOFS. Dispatch (rules R142 to R144): the slot it fills, the placements of one tick as a relation with its properties, and O28,
O29.
-/

namespace Sys2Proof.Machine

/-! The slot Dispatch fills -/

/-- Slot `k` is the empty one of least index (rule R144). -/
structure IsLeastFree (q : List IqSlot) (k : Nat) : Prop where
  free : ∃ x : IqSlot, q[k]? = some x ∧ x.valid = false
  least : ∀ j, j < k → ∀ y : IqSlot, q[j]? = some y → y.valid = true

theorem freeSlot_eq_none_iff {q : List IqSlot} : freeSlot q = none ↔ ∀ x ∈ q, x.valid = true := by
  induction q with
  | nil => simp [freeSlot]
  | cons x q ih => cases hx : x.valid <;> simp [freeSlot, hx, ih]

theorem isLeastFree_of_freeSlot {q : List IqSlot} {k : Nat} (h : freeSlot q = some k) : IsLeastFree q k := by
  induction q generalizing k with
  | nil => simp [freeSlot] at h
  | cons x q ih =>
    cases hx : x.valid with
    | false =>
      obtain rfl : 0 = k := by simpa [freeSlot, hx] using h
      exact ⟨⟨x, rfl, hx⟩, fun j hj => absurd hj (Nat.not_lt_zero j)⟩
    | true =>
      obtain ⟨m, hm, rfl⟩ : ∃ m, freeSlot q = some m ∧ m + 1 = k := by simpa [freeSlot, hx] using h
      obtain ⟨hfree, hleast⟩ := ih hm
      refine ⟨hfree, fun j hj y hy => ?_⟩
      cases j with
      | zero =>
        obtain rfl : x = y := by simpa using hy
        exact hx
      | succ j => exact hleast j (by omega) y (by simpa using hy)

theorem IsLeastFree.unique {q : List IqSlot} {k k' : Nat} (h : IsLeastFree q k) (h' : IsLeastFree q k') : k = k' := by
  obtain ⟨⟨x, hx, hvx⟩, hleast⟩ := h
  obtain ⟨⟨x', hx', hvx'⟩, hleast'⟩ := h'
  rcases Nat.lt_trichotomy k k' with hlt | heq | hgt
  · simp [hleast' k hlt x hx] at hvx
  · exact heq
  · simp [hleast k' hgt x' hx'] at hvx'

theorem freeSlot_eq_some_iff {q : List IqSlot} {k : Nat} : freeSlot q = some k ↔ IsLeastFree q k := by
  refine ⟨isLeastFree_of_freeSlot, fun h => ?_⟩
  cases hf : freeSlot q with
  | none =>
    obtain ⟨x, hx, hvalid⟩ := h.free
    simp [freeSlot_eq_none_iff.mp hf x (List.mem_of_getElem? hx)] at hvalid
  | some m => rw [(isLeastFree_of_freeSlot hf).unique h]

/-- Settles O28: `IsLeastFree` says what the slot is, and it is unique. -/
theorem freeSlotIsLeast : Obligations.FreeSlotIsLeast := fun _ =>
  ⟨fun _ => freeSlot_eq_some_iff.trans ⟨fun h => ⟨h.free, h.least⟩, fun ⟨hfree, hleast⟩ => ⟨hfree, hleast⟩⟩,
    freeSlot_eq_none_iff⟩

/-! The placements of one tick -/

/-- The number of empty slots (rule R114). -/
def freeCount (q : List IqSlot) : Nat := q.countP fun x => !x.valid

theorem State.iqFree_eq (s : State) : s.iqFree = freeCount s.iq := rfl

/-- Filling an empty slot leaves one less. -/
theorem freeCount_set {q : List IqSlot} {k : Nat} {x y : IqSlot} (hx : q[k]? = some x) (hfree : x.valid = false)
    (hy : y.valid = true) : freeCount (q.set k y) + 1 = freeCount q := by
  obtain ⟨hk, hget⟩ := List.getElem?_eq_some_iff.mp hx
  have hpos : 0 < freeCount q := List.countP_pos_iff.mpr ⟨x, List.mem_of_getElem? hx, by simp [hfree]⟩
  simp only [freeCount] at hpos ⊢
  rw [List.countP_set (h := hk)]
  simp [hget, hfree, hy]
  omega

/-- The records `b`, in order, each placed in the least empty slot of its turn, take the IQ `q` to `q'`; the slots are those listed. -/
inductive Placements (rob : List RobSlot) (c : Nat) : List IqSlot → List InsRec → List Nat → List IqSlot → Prop where
  | done (q : List IqSlot) : Placements rob c q [] [] q
  | place {k : Nat} {q q' : List IqSlot} {i : InsRec} {b : List InsRec} {slots : List Nat} (hk : IsLeastFree q k)
      (rest : Placements rob c (q.set k { valid := true, ins := i.dispatched rob c }) b slots q') :
      Placements rob c q (i :: b) (k :: slots) q'

/-- With an empty slot for each record the loop of Dispatch places them all and writes nothing else (rules R143, R144). -/
theorem State.dispatchLoop_placements {s : State} {b : List InsRec} (h : b.length ≤ s.iqFree) :
    ∃ slots q, Placements s.rob s.cycle s.iq b slots q ∧ s.dispatchLoop b = { s with di := [], iq := q } := by
  induction b generalizing s with
  | nil => exact ⟨[], s.iq, .done s.iq, rfl⟩
  | cons i b ih =>
    cases hf : freeSlot s.iq with
    | none =>
      have hzero : s.iqFree = 0 := List.countP_eq_zero.mpr fun x hx => by simp [freeSlot_eq_none_iff.mp hf x hx]
      simp [hzero] at h
    | some k =>
      have hk := isLeastFree_of_freeSlot hf
      obtain ⟨x, hx, hfree⟩ := hk.free
      have hcount := freeCount_set (y := { valid := true, ins := i.dispatched s.rob s.cycle }) hx hfree rfl
      obtain ⟨slots, q, hplace, hloop⟩ :=
        ih (s := { s with iq := s.iq.set k { valid := true, ins := i.dispatched s.rob s.cycle } }) (by
          rw [State.iqFree_eq, List.length_cons] at h
          rw [State.iqFree_eq]
          show b.length ≤ freeCount (s.iq.set k _)
          omega)
      refine ⟨k :: slots, q, .place hk hplace, ?_⟩
      simp only [State.dispatchLoop, hf]
      exact hloop

section
variable {rob : List RobSlot} {c : Nat} {q q' : List IqSlot} {b : List InsRec} {slots : List Nat}

theorem Placements.length_eq (h : Placements rob c q b slots q') : slots.length = b.length := by
  induction h with
  | done => rfl
  | place _ _ ih => simp [ih]

theorem Placements.iq_length (h : Placements rob c q b slots q') : q'.length = q.length := by
  induction h with
  | done => rfl
  | place _ _ ih => simp [ih]

theorem Placements.freeCount_eq (h : Placements rob c q b slots q') : freeCount q' + b.length = freeCount q := by
  induction h with
  | done => rfl
  | @place k q q' i b slots hk _ ih =>
    obtain ⟨x, hx, hfree⟩ := hk.free
    have hcount := freeCount_set (y := { valid := true, ins := i.dispatched rob c }) hx hfree rfl
    rw [List.length_cons]
    omega

/-- Every slot filled was empty. -/
theorem Placements.free (h : Placements rob c q b slots q') {k : Nat} (hk : k ∈ slots) :
    ∃ x : IqSlot, q[k]? = some x ∧ x.valid = false := by
  induction h with
  | done => simp at hk
  | @place m q q' i b slots hm _ ih =>
    by_cases hkm : k = m
    · exact hkm ▸ hm.free
    · obtain ⟨x, hx, hfree⟩ := ih ((List.mem_cons.mp hk).resolve_left hkm)
      exact ⟨x, by rwa [List.getElem?_set_ne (Ne.symm hkm)] at hx, hfree⟩

/-- Behind the least empty slot of a turn come those of the later turns. -/
theorem Placements.lt_of_filled {k : Nat} {y : IqSlot} (hk : IsLeastFree q k) (hy : y.valid = true)
    (h : Placements rob c (q.set k y) b slots q') {j : Nat} (hj : j ∈ slots) : k < j := by
  obtain ⟨x, hx, hfree⟩ := h.free hj
  rcases Nat.lt_trichotomy j k with hlt | rfl | hgt
  · rw [List.getElem?_set_ne (Nat.ne_of_gt hlt)] at hx
    simp [hk.least j hlt x hx] at hfree
  · rw [List.getElem?_set_self'] at hx
    obtain ⟨_, _, rfl⟩ := Option.map_eq_some_iff.mp hx
    simp [hy] at hfree
  · exact hgt

theorem Placements.increasing (h : Placements rob c q b slots q') : slots.Pairwise (· < ·) := by
  induction h with
  | done => exact .nil
  | place hk rest ih => exact List.pairwise_cons.mpr ⟨fun j hj => Placements.lt_of_filled hk rfl rest hj, ih⟩

/-- Every slot that is not filled is as before. -/
theorem Placements.other (h : Placements rob c q b slots q') {k : Nat} (hk : k ∉ slots) : q'[k]? = q[k]? := by
  induction h with
  | done => rfl
  | place _ _ ih =>
    obtain ⟨hne, hk⟩ : k ≠ _ ∧ k ∉ _ := by simpa using hk
    rw [ih hk, List.getElem?_set_ne (Ne.symm hne)]

/-- The `m`-th record stands in the `m`-th slot, and every smaller slot that was empty was filled before it. -/
theorem Placements.placed (h : Placements rob c q b slots q') {m k : Nat} {i : InsRec} (hi : b[m]? = some i)
    (hk : slots[m]? = some k) :
    (∀ (j : Nat) (y : IqSlot), j < k → q[j]? = some y → y.valid = false → j ∈ slots.take m) ∧
      q'[k]? = some { valid := true, ins := i.dispatched rob c } := by
  induction h generalizing m with
  | done => simp at hi
  | @place k₀ q q' i₀ b slots hk₀ rest ih =>
    cases m with
    | zero =>
      obtain rfl : i₀ = i := by simpa using hi
      obtain rfl : k₀ = k := by simpa using hk
      refine ⟨fun j y hj hy hfree => by simp [hk₀.least j hj y hy] at hfree, ?_⟩
      have hout : k₀ ∉ slots := fun hmem => Nat.lt_irrefl k₀ (Placements.lt_of_filled hk₀ rfl rest hmem)
      obtain ⟨x, hx, -⟩ := hk₀.free
      rw [rest.other hout, List.getElem?_set_self', hx]
      rfl
    | succ m =>
      obtain ⟨hleast, hget⟩ := ih (by simpa using hi) (by simpa using hk)
      refine ⟨fun j y hj hy hfree => ?_, hget⟩
      by_cases hjk : j = k₀
      · simp [hjk]
      · have hmem := hleast j y hj (by rwa [List.getElem?_set_ne (Ne.symm hjk)]) hfree
        simp [hmem]

end

theorem State.dispatch_of_full {s : State} (h : s.iqFree < s.cfg.width) :
    s.dispatch = { s with di := stampAll s.di .di s.cycle } := by
  have hclosed : s.iqAdmits = false := decide_eq_false (by omega)
  simp [State.dispatch, hclosed]

theorem State.dispatch_of_admits {s : State} (h : s.cfg.width ≤ s.iqFree) :
    s.dispatch = s.dispatchLoop (stampAll s.di .di s.cycle) := by
  have hopen : s.iqAdmits = true := decide_eq_true h
  simp [State.dispatch, hopen]

/-- Settles O29: the placements of the stamped DI, which has no more records than the IQ has empty slots. -/
theorem dispatchAllOrNothing : Obligations.DispatchAllOrNothing := by
  refine fun s hdi => ⟨State.dispatch_of_full, fun hfree => ?_⟩
  obtain ⟨slots, q, hplace, hloop⟩ := State.dispatchLoop_placements (s := s) (b := stampAll s.di .di s.cycle) (by
    rw [stampAll_length]
    omega)
  have hlen : slots.length = s.di.length := hplace.length_eq.trans (stampAll_length ..)
  rw [State.dispatch_of_admits hfree, hloop]
  refine ⟨rfl, hplace.iq_length, ?_, fun k x hx hvalid => ?_, slots, hlen, hplace.increasing, fun k hk => hplace.other hk,
    fun m k i hi hk => ?_⟩
  · simpa [State.iqFree_eq] using hplace.freeCount_eq
  · have hnot : k ∉ slots := fun hmem => by
      obtain ⟨y, hy, hempty⟩ := hplace.free hmem
      rw [hx] at hy
      cases hy
      simp [hvalid] at hempty
    exact (hplace.other hnot).trans hx
  · have hstamped : (stampAll s.di .di s.cycle)[m]? = some (i.stamp .di s.cycle) := by simp [stampAll, hi]
    obtain ⟨hleast, hget⟩ := hplace.placed hstamped hk
    exact ⟨hplace.free (List.mem_of_getElem? hk), hleast, hget⟩

end Sys2Proof.Machine
end

section
/-!
PROOFS. Rename (rules R130 to R135): one record, the records of one tick one after another, and O22, O24, O25, O27, O57.
-/

namespace Sys2Proof.Machine

/-! One record -/

/-- A record without tags takes those the RMT gives (rules R132, R133). -/
theorem InsRec.renamed_src1Tag {i : InsRec} (h : i.src1Tag = none) (rmt : Vector RmtEntry numArf) (t c : Nat) :
    (i.renamed rmt t c).src1Tag = sourceTag rmt i.src1 := by
  simp only [InsRec.renamed, h]
  cases sourceTag rmt i.src1 <;> rfl

theorem InsRec.renamed_src2Tag {i : InsRec} (h : i.src2Tag = none) (rmt : Vector RmtEntry numArf) (t c : Nat) :
    (i.renamed rmt t c).src2Tag = sourceTag rmt i.src2 := by
  simp only [InsRec.renamed, h]
  cases sourceTag rmt i.src2 <;> rfl

@[simp] theorem InsRec.renamed_dstTag (i : InsRec) (rmt : Vector RmtEntry numArf) (t c : Nat) :
    (i.renamed rmt t c).dstTag = some t := rfl

@[simp] theorem InsRec.renamed_times (i : InsRec) (rmt : Vector RmtEntry numArf) (t c : Nat) :
    (i.renamed rmt t c).times = (i.leave .rn c).times := rfl

/-- Settles O22: the definition of `renameOne`, with the tags read back from the RMT. -/
theorem renameOneRecord : Obligations.RenameOneRecord := by
  intro s i htag1 htag2 htail
  refine ⟨i.renamed s.rmt s.tail s.cycle, rfl, rfl, fun t => ?_, fun t => ?_, fun k => ?_, fun r => s.renameOne_rmt_get i r⟩
  · rw [InsRec.renamed_src1Tag htag1, sourceTag_eq_some]
  · rw [InsRec.renamed_src2Tag htag2, sourceTag_eq_some]
  · by_cases hk : k = s.tail
    · subst hk
      rw [if_pos rfl, State.renameOne_rob, List.getElem?_set_self htail]
    · rw [if_neg hk, State.renameOne_rob_get_of_ne hk]

/-! The records of one tick -/

/-- Rename of the records `l`, one after another. -/
def State.renameAll (s : State) (l : List InsRec) : State := l.foldl State.renameOne s

@[simp] theorem State.renameAll_nil (s : State) : s.renameAll [] = s := rfl

@[simp] theorem State.renameAll_cons (s : State) (i : InsRec) (l : List InsRec) :
    s.renameAll (i :: l) = (s.renameOne i).renameAll l := rfl

theorem State.renameAll_append (s : State) (l m : List InsRec) : s.renameAll (l ++ m) = (s.renameAll l).renameAll m :=
  List.foldl_append

/-- The `k`-th record is renamed after its `k` predecessors and before the others. -/
theorem State.renameAll_split (s : State) {l : List InsRec} {k : Nat} {i : InsRec} (hi : l[k]? = some i) :
    s.renameAll l = ((s.renameAll (l.take k)).renameOne i).renameAll (l.drop (k + 1)) := by
  obtain ⟨hk, hget⟩ := List.getElem?_eq_some_iff.mp hi
  have hsplit : l = l.take k ++ i :: l.drop (k + 1) := by rw [← hget, List.getElem_cons_drop, List.take_append_drop]
  conv_lhs => rw [hsplit]
  rw [State.renameAll_append, State.renameAll_cons]

/-- What no rename writes (rule R132). -/
theorem State.renameAll_frame (s : State) (l : List InsRec) :
    s.renameAll l = { s with
      rob := (s.renameAll l).rob, rmt := (s.renameAll l).rmt, rr := (s.renameAll l).rr, tail := (s.renameAll l).tail } := by
  induction l generalizing s with
  | nil => rfl
  | cons i l ih =>
    rw [State.renameAll_cons, ih (s.renameOne i)]
    rfl

@[simp] theorem State.renameAll_cfg (s : State) (l : List InsRec) : (s.renameAll l).cfg = s.cfg := by
  rw [State.renameAll_frame]

@[simp] theorem State.renameAll_cycle (s : State) (l : List InsRec) : (s.renameAll l).cycle = s.cycle := by
  rw [State.renameAll_frame]

@[simp] theorem State.renameAll_rr_length (s : State) (l : List InsRec) : (s.renameAll l).rr.length = s.rr.length + l.length := by
  induction l generalizing s with
  | nil => rfl
  | cons i l ih =>
    rw [State.renameAll_cons, ih, State.renameOne_rr, List.length_append, List.length_singleton, List.length_cons]
    omega

@[simp] theorem State.renameAll_rob_length (s : State) (l : List InsRec) : (s.renameAll l).rob.length = s.rob.length := by
  induction l generalizing s with
  | nil => rfl
  | cons i l ih => rw [State.renameAll_cons, ih, State.renameOne_rob, List.length_set]

theorem State.renameAll_rr_prefix (s : State) (l : List InsRec) : s.rr <+: (s.renameAll l).rr := by
  induction l generalizing s with
  | nil => exact List.prefix_rfl
  | cons i l ih => exact (List.prefix_append s.rr _).trans (ih (s.renameOne i))

/-- The pointer steps once for each record (rule R135). -/
theorem State.renameAll_tail {s : State} (htail : s.tail < s.cfg.robSize) (l : List InsRec) :
    (s.renameAll l).tail = (s.tail + l.length) % s.cfg.robSize := by
  induction l generalizing s with
  | nil => exact (Nat.mod_eq_of_lt htail).symm
  | cons i l ih =>
    have hlt : (s.renameOne i).tail < s.cfg.robSize := Nat.mod_lt _ (by omega)
    rw [State.renameAll_cons, ih (s := s.renameOne i) hlt, State.renameOne_tail, State.renameOne_cfg, robSucc, Nat.mod_add_mod,
      List.length_cons, Nat.add_assoc, Nat.add_comm 1]

theorem getElem?_of_prefix {α : Type} {l m : List α} {k : Nat} {x : α} (h : l <+: m) (hx : l[k]? = some x) : m[k]? = some x := by
  obtain ⟨hk, rfl⟩ := List.getElem?_eq_some_iff.mp hx
  exact List.prefix_iff_getElem?.mp h k hk

/-- The `k`-th record goes to RR as the state its predecessors left renames it (rule R132). -/
theorem State.renameAll_rr_get {s : State} (htail : s.tail < s.cfg.robSize) {l : List InsRec} {k : Nat} {i : InsRec}
    (hi : l[k]? = some i) :
    (s.renameAll l).rr[s.rr.length + k]? =
      some (i.renamed (s.renameAll (l.take k)).rmt ((s.tail + k) % s.cfg.robSize) s.cycle) := by
  obtain ⟨hk, -⟩ := List.getElem?_eq_some_iff.mp hi
  have hlen : (l.take k).length = k := List.length_take_of_le hk.le
  have hpre := State.renameAll_rr_prefix ((s.renameAll (l.take k)).renameOne i) (l.drop (k + 1))
  rw [State.renameAll_split s hi]
  refine getElem?_of_prefix hpre ?_
  have hwidth : (s.renameAll (l.take k)).rr.length = s.rr.length + k := by rw [State.renameAll_rr_length, hlen]
  rw [State.renameOne_rr, ← hwidth, List.getElem?_concat_length, State.renameAll_cycle, State.renameAll_tail htail, hlen]

/-- Two places of the ROB less than its size apart are different. -/
theorem add_mod_ne {n t a b : Nat} (hb : b < n) (hab : a < b) : (t + a) % n ≠ (t + b) % n := by
  intro h
  have hmod : a % n = b % n := Nat.ModEq.add_left_cancel' t h
  rw [Nat.mod_eq_of_lt hb, Nat.mod_eq_of_lt (hab.trans hb)] at hmod
  omega

/-- Slots that no record gets are as before (rule R132). -/
theorem State.renameAll_rob_get_other {s : State} (htail : s.tail < s.cfg.robSize) {l : List InsRec} {n : Nat}
    (h : ∀ k, k < l.length → n ≠ (s.tail + k) % s.cfg.robSize) : (s.renameAll l).rob[n]? = s.rob[n]? := by
  induction l generalizing s with
  | nil => rfl
  | cons i l ih =>
    have hlt : (s.renameOne i).tail < s.cfg.robSize := Nat.mod_lt _ (by omega)
    have hne : n ≠ s.tail := by
      have hzero := h 0 (Nat.succ_pos _)
      rwa [Nat.add_zero, Nat.mod_eq_of_lt htail] at hzero
    rw [State.renameAll_cons, ih (s := s.renameOne i) hlt, State.renameOne_rob_get_of_ne hne]
    intro k hk
    have hnext := h (k + 1) (by rw [List.length_cons]; omega)
    rwa [State.renameOne_tail, State.renameOne_cfg, robSucc, Nat.mod_add_mod, Nat.add_assoc, Nat.add_comm 1]

/-- The `k`-th record has the `k`-th slot from `tail` on (rules R132, R135). -/
theorem State.renameAll_rob_get {s : State} (htail : s.tail < s.cfg.robSize) (hrob : s.rob.length = s.cfg.robSize)
    {l : List InsRec} (hl : l.length ≤ s.cfg.robSize) {k : Nat} {i : InsRec} (hi : l[k]? = some i) :
    (s.renameAll l).rob[(s.tail + k) % s.cfg.robSize]? = some { valid := true, ready := false, ins := i, dstArf := i.dst } := by
  obtain ⟨hk, -⟩ := List.getElem?_eq_some_iff.mp hi
  have hlen : (l.take k).length = k := List.length_take_of_le hk.le
  have htail' : (s.renameAll (l.take k)).tail = (s.tail + k) % s.cfg.robSize := by rw [State.renameAll_tail htail, hlen]
  have hpos : (s.tail + k) % s.cfg.robSize < s.cfg.robSize := Nat.mod_lt _ (by omega)
  rw [State.renameAll_split s hi, State.renameAll_rob_get_other]
  · rw [State.renameOne_rob, htail', List.getElem?_set_self (by rw [State.renameAll_rob_length, hrob]; exact hpos)]
  · rw [State.renameOne_tail, State.renameOne_cfg, State.renameAll_cfg]
    exact Nat.mod_lt _ (by omega)
  · intro m hm
    rw [List.length_drop] at hm
    rw [State.renameOne_tail, State.renameOne_cfg, State.renameAll_cfg, htail', robSucc, Nat.mod_add_mod, Nat.add_assoc,
      Nat.mod_add_mod, Nat.add_assoc]
    exact add_mod_ne (by omega) (by omega)

/-! Rename -/

/-- The moves while RR has room are the renames of the records within it (rule R131). -/
theorem State.renameLoop_eq (s : State) (b : List InsRec) :
    s.renameLoop b = { s.renameAll (b.take (s.cfg.width - s.rr.length)) with rn := b.drop (s.cfg.width - s.rr.length) } := by
  induction b generalizing s with
  | nil => simp [State.renameLoop]
  | cons i b ih =>
    cases hroom : s.room s.rr with
    | true =>
      have hlt := (s.room_iff s.rr).mp hroom
      obtain ⟨k, hk⟩ : ∃ k, s.cfg.width - s.rr.length = k + 1 := ⟨s.cfg.width - s.rr.length - 1, by omega⟩
      have hk' : (s.renameOne i).cfg.width - (s.renameOne i).rr.length = k := by
        rw [State.renameOne_cfg, State.renameOne_rr, List.length_append, List.length_singleton]
        omega
      have hround : s.renameLoop (i :: b) = (s.renameOne i).renameLoop b := by simp [State.renameLoop, hroom]
      rw [hround, ih, hk', hk]
      rfl
    | false =>
      have hfull : s.cfg.width - s.rr.length = 0 := by
        have hnot : ¬ s.rr.length < s.cfg.width := fun h => by simp [(s.room_iff s.rr).mpr h] at hroom
        omega
      rw [hfull]
      simp [State.renameLoop, hroom]

theorem State.rename_of_full {s : State} (h : s.robFree < s.cfg.width) : s.rename = { s with rn := stampAll s.rn .rn s.cycle } := by
  have hclosed : s.robAdmits = false := decide_eq_false (by omega)
  simp [State.rename, hclosed]

/-- Settles O24: the admission test is made before any record moves (rule R131). -/
theorem renameStallsOnFullRob : Obligations.RenameStallsOnFullRob := fun _ => State.rename_of_full

/-- Rename with the admission test passed. -/
theorem State.rename_of_admits {s : State} (h : s.cfg.width ≤ s.robFree) :
    s.rename = { s.renameAll ((stampAll s.rn .rn s.cycle).take (s.cfg.width - s.rr.length)) with
      rn := (stampAll s.rn .rn s.cycle).drop (s.cfg.width - s.rr.length) } := by
  have hopen : s.robAdmits = true := decide_eq_true h
  simp only [State.rename, hopen, if_true, State.renameLoop_eq]

theorem getElem?_take_stampAll {b : List InsRec} {st : Stage} {c m k : Nat} {i : InsRec} (hk : k < m) (hi : b[k]? = some i) :
    ((stampAll b st c).take m)[k]? = some (i.stamp st c) := by
  simp [stampAll, List.getElem?_take_of_lt hk, hi]

/-- Settles O25: the facts about the records renamed in one tick, with those that RR has room for. -/
theorem renameMovesAGroup : Obligations.RenameMovesAGroup := by
  intro s hfree htail
  have hlen : ((stampAll s.rn .rn s.cycle).take (s.cfg.width - s.rr.length)).length =
      min s.rn.length (s.cfg.width - s.rr.length) := by
    rw [List.length_take, stampAll_length, Nat.min_comm]
  rw [State.rename_of_admits hfree]
  refine ⟨rfl, ?_, ?_, State.renameAll_rr_prefix s _, fun k i hk hi => ⟨fun hrob => ?_, ?_⟩, fun n hn => ?_⟩
  · exact (State.renameAll_rr_length s _).trans (by rw [hlen])
  · exact (State.renameAll_tail htail _).trans (by rw [hlen])
  · have hcount : s.robFree ≤ s.rob.length := List.countP_le_length
    exact State.renameAll_rob_get htail hrob (by omega) (getElem?_take_stampAll hk hi)
  · exact ⟨_, State.renameAll_rr_get htail (getElem?_take_stampAll hk hi), rfl, ⟨rfl, rfl, rfl, rfl, rfl, rfl⟩, rfl⟩
  · exact State.renameAll_rob_get_other htail fun k hk => hn k (hlen ▸ hk)

/-! Dependence within a group -/

/-- The RMT after the renames of one tick gives the tag of the last writer among them, else the one it gave before (rules R132 to
R134). -/
theorem State.sourceTag_renameAll {s : State} (htail : s.tail < s.cfg.robSize) (l : List InsRec) (f : RegField) :
    sourceTag (s.renameAll l).rmt f = s.producerTag l f := by
  cases f with
  | none => rfl
  | some r =>
    induction l using List.reverseRecOn with
    | nil => simp
    | append_singleton l i ih =>
      rw [producerTag_append, ← ih, State.renameAll_append, State.renameAll_cons, State.renameAll_nil]
      simp only [sourceTag, State.renameOne_rmt_get, State.renameAll_tail htail]
      split <;> rfl

/-- Only the destinations of the records renamed matter. -/
theorem State.producerTag_stampAll (s : State) (l : List InsRec) (st : Stage) (c : Nat) (f : RegField) :
    s.producerTag (stampAll l st c) f = s.producerTag l f := by
  cases f with
  | none => rfl
  | some r =>
    induction l using List.reverseRecOn with
    | nil => rfl
    | append_singleton l i ih =>
      have hstamp : stampAll (l ++ [i]) st c = stampAll l st c ++ [i.stamp st c] := by simp [stampAll]
      rw [hstamp, producerTag_append, producerTag_append, ih, stampAll_length, InsRec.stamp_dst]

theorem stampAll_take (b : List InsRec) (st : Stage) (c k : Nat) : (stampAll b st c).take k = stampAll (b.take k) st c := by
  simp [stampAll]

/-- Settles O57: the `k`-th record sees the RMT that its `k` predecessors left, which gives the tag of the last of them that writes
the register. -/
theorem renameSeesItsOwnGroup : Obligations.RenameSeesItsOwnGroup := by
  intro s hfree htail
  have hrename := State.rename_of_admits hfree
  refine ⟨fun k i hk hi htag1 htag2 => ?_, fun r => ?_⟩
  · have htake : ((stampAll s.rn .rn s.cycle).take (s.cfg.width - s.rr.length)).take k = stampAll (s.rn.take k) .rn s.cycle := by
      rw [List.take_take, Nat.min_eq_left hk.le, stampAll_take]
    have hget := State.renameAll_rr_get htail (getElem?_take_stampAll (st := .rn) (c := s.cycle) hk hi)
    rw [htake] at hget
    refine ⟨_, (congrArg (fun u : State => u.rr[s.rr.length + k]?) hrename).trans hget, ?_, ?_⟩
    · rw [InsRec.renamed_src1Tag (i := i.stamp .rn s.cycle) htag1, State.sourceTag_renameAll htail, State.producerTag_stampAll,
        InsRec.stamp_src1]
    · rw [InsRec.renamed_src2Tag (i := i.stamp .rn s.cycle) htag2, State.sourceTag_renameAll htail, State.producerTag_stampAll,
        InsRec.stamp_src2]
  · have hrmt : s.rename.rmt = (s.renameAll (stampAll (s.rn.take (s.cfg.width - s.rr.length)) .rn s.cycle)).rmt := by
      rw [hrename, stampAll_take]
    rw [← State.producerTag_stampAll s _ .rn s.cycle, ← State.sourceTag_renameAll htail, ← hrmt]
    rfl

/-! The snap -/

/-- Settles O27: the snap of a tag reads the `ready` bit of the slot it names, and no `valid` bit (rule R140). -/
theorem snapTestsReadyOnly : Obligations.SnapTestsReadyOnly := by
  intro i rob k x hx
  have hready : robReady rob k = x.ready := by simp [robReady, hx]
  have hsnap {src : Option Nat} (h : src = some k) : snapTag rob src = if x.ready then none else some k := by
    rw [h, snapTag, hready]
  have hnone {src : Option Nat} (h : src = none) : snapTag rob src = none := by rw [h]; rfl
  exact ⟨hsnap, hsnap, hnone, hnone⟩

end Sys2Proof.Machine
end

section
/-!
PROOFS. Retire (rules R175 to R179): the in-order loop, and O38, O39.
-/

namespace Sys2Proof.Machine

/-! The loop -/

/-- What every retirement of a valid and ready head keeps, the loop of Retire keeps. -/
theorem State.retireLoop_induction {P : State → Prop}
    (hone : ∀ (s : State) (x : RobSlot), P s → s.rob[s.head]? = some x → x.valid = true → x.ready = true → P (s.retireOne x))
    {s : State} (h : P s) (n : Nat) : P (s.retireLoop n) := by
  induction n generalizing s with
  | zero => exact h
  | succ n ih =>
    by_cases hhead : ∃ x, s.rob[s.head]? = some x ∧ (x.valid && x.ready) = true
    · obtain ⟨x, hx, hready⟩ := hhead
      obtain ⟨hv, hr⟩ := Bool.and_eq_true_iff.mp hready
      rw [State.retireLoop_succ_of_ready hx hready]
      exact ih (hone s x h hx hv hr)
    · rw [State.retireLoop_of_stopped (by simpa using hhead)]
      exact h

/-- The state with the stamps of Retire (rule R175). -/
def State.stampedForRetire (s : State) : State := { s with rob := s.rob.map fun (x : RobSlot) => x.stampRetire s.cycle }

theorem State.retire_eq (s : State) : s.retire = s.stampedForRetire.retireLoop s.cfg.width := rfl

@[simp] theorem RobSlot.stampRetire_valid (x : RobSlot) (c : Nat) : (x.stampRetire c).valid = x.valid := by
  unfold RobSlot.stampRetire
  split <;> rfl

@[simp] theorem RobSlot.stampRetire_ready (x : RobSlot) (c : Nat) : (x.stampRetire c).ready = x.ready := by
  unfold RobSlot.stampRetire
  split <;> rfl

@[simp] theorem RobSlot.stampRetire_dstArf (x : RobSlot) (c : Nat) : (x.stampRetire c).dstArf = x.dstArf := by
  unfold RobSlot.stampRetire
  split <;> rfl

theorem RobSlot.stampRetire_of_ready {x : RobSlot} (h : (x.valid && x.ready) = true) (c : Nat) :
    x.stampRetire c = { x with ins := x.ins.stamp .rt c } := if_pos h

theorem RobSlot.stampRetire_of_waiting {x : RobSlot} (h : (x.valid && x.ready) = false) (c : Nat) : x.stampRetire c = x :=
  if_neg (by simp [h])

/-! What the loop leaves of a slot -/

/-- `y` is what retirements can leave of the slot `x`: they clear the valid bit of a ready slot and nothing else (rules R177 to
R179). -/
structure RetiredFrom (x y : RobSlot) : Prop where
  ready : y.ready = x.ready
  ins : y.ins = x.ins
  dstArf : y.dstArf = x.dstArf
  waiting : (x.valid && x.ready) = false → y = x

theorem RetiredFrom.refl (x : RobSlot) : RetiredFrom x x := ⟨rfl, rfl, rfl, fun _ => rfl⟩

theorem State.retireLoop_slot (s : State) (n : Nat) : (s.retireLoop n).rob.length = s.rob.length ∧
    ∀ (k : Nat) (x : RobSlot), s.rob[k]? = some x → ∃ y, (s.retireLoop n).rob[k]? = some y ∧ RetiredFrom x y := by
  refine State.retireLoop_induction (P := fun t => t.rob.length = s.rob.length ∧
    ∀ (k : Nat) (x : RobSlot), s.rob[k]? = some x → ∃ y, t.rob[k]? = some y ∧ RetiredFrom x y) ?_ ?_ n
  · rintro t z ⟨hlen, hslots⟩ hz hv hr
    refine ⟨by rw [State.retireOne_rob, List.length_set, hlen], fun k x hx => ?_⟩
    obtain ⟨y, hy, hfrom⟩ := hslots k x hx
    by_cases hk : t.head = k
    · subst hk
      obtain rfl : z = y := Option.some.inj (hz.symm.trans hy)
      have hlt : t.head < t.rob.length := (List.getElem?_eq_some_iff.mp hz).1
      refine ⟨_, List.getElem?_set_self hlt, hfrom.ready, hfrom.ins, hfrom.dstArf, fun hwait => ?_⟩
      rw [hfrom.waiting hwait] at hv hr
      simp [hv, hr] at hwait
    · exact ⟨y, (List.getElem?_set_ne hk).trans hy, hfrom⟩
  · exact ⟨rfl, fun k x hx => ⟨x, hx, .refl x⟩⟩

/-- Retire writes the ROB, `head`, the RMT and OUT (rules R175 to R179). -/
theorem State.retire_frame (s : State) :
    s.retire = { s with rob := s.retire.rob, head := s.retire.head, rmt := s.retire.rmt, out := s.retire.out } := by
  have hframe : ∀ n (u : State), u.retireLoop n = { u with
      rob := (u.retireLoop n).rob, head := (u.retireLoop n).head, rmt := (u.retireLoop n).rmt, out := (u.retireLoop n).out } := by
    intro n u
    refine State.retireLoop_induction (P := fun t => t = { u with rob := t.rob, head := t.head, rmt := t.rmt, out := t.out })
      (fun t x ht _ _ _ => ?_) rfl n
    rw [ht]
    rfl
  exact hframe s.cfg.width s.stampedForRetire

/-- Settles O38: the stamp, then what the loop leaves of each slot. -/
theorem retireStampsReadySlots : Obligations.RetireStampsReadySlots := by
  intro s
  obtain ⟨hlen, hslots⟩ := s.stampedForRetire.retireLoop_slot s.cfg.width
  refine ⟨s.retire_frame, ?_, fun k x hx => ?_⟩
  · rw [s.retire_eq, hlen]
    exact List.length_map ..
  · have hstamped : s.stampedForRetire.rob[k]? = some (x.stampRetire s.cycle) := by simp [State.stampedForRetire, hx]
    obtain ⟨y, hy, hready, hins, hdst, hwait⟩ := hslots k _ hstamped
    refine ⟨y, hy, by rw [hready, x.stampRetire_ready], by rw [hdst, x.stampRetire_dstArf], fun hv => ?_, fun hv => ?_⟩
    · rw [hins, RobSlot.stampRetire_of_ready hv]
    · rw [RobSlot.stampRetire_of_waiting hv] at hwait
      exact hwait hv

/-! The places from `head` on -/

/-- The place after one retirement. -/
theorem State.retireOne_robIndex (s : State) (x : RobSlot) (k : Nat) : (s.retireOne x).robIndex k = s.robIndex (k + 1) := by
  rw [State.robIndex, State.robIndex, State.retireOne_head, State.retireOne_cfg, robSucc, Nat.mod_add_mod, Nat.add_assoc,
    Nat.add_comm 1]

theorem State.robIndex_zero {s : State} (h : s.head < s.cfg.robSize) : s.robIndex 0 = s.head := Nat.mod_eq_of_lt h

/-- Every ROB index is some places after `head`. -/
theorem State.exists_robIndex {s : State} {j : Nat} (hj : j < s.cfg.robSize) :
    ∃ k, k < s.cfg.robSize ∧ s.robIndex k = j := by
  refine ⟨(j + (s.cfg.robSize - s.head % s.cfg.robSize)) % s.cfg.robSize, Nat.mod_lt _ (by omega), ?_⟩
  have hlt : s.head % s.cfg.robSize < s.cfg.robSize := Nat.mod_lt _ (by omega)
  rw [State.robIndex, Nat.add_mod_mod, ← Nat.mod_add_mod]
  have hsum : s.head % s.cfg.robSize + (j + (s.cfg.robSize - s.head % s.cfg.robSize)) = j + s.cfg.robSize := by omega
  rw [hsum, Nat.add_mod_right, Nat.mod_eq_of_lt hj]

/-- Places less than the size of the ROB apart are different. -/
theorem State.robIndex_inj {s : State} {j k : Nat} (hj : j < s.cfg.robSize) (hk : k < s.cfg.robSize)
    (h : s.robIndex j = s.robIndex k) : j = k := by
  rcases Nat.lt_trichotomy j k with hlt | heq | hgt
  · exact absurd h (add_mod_ne hk hlt)
  · exact heq
  · exact absurd h.symm (add_mod_ne hj hgt)

/-- The slots from `head` on are the one at `head` and those from the place after it on. -/
theorem State.robSlots_succ {s : State} {x : RobSlot} (hhead : s.head < s.cfg.robSize) (hx : s.rob[s.head]? = some x) (n : Nat) :
    s.robSlots (n + 1) = x :: (List.range n).filterMap fun k => s.rob[s.robIndex (k + 1)]? := by
  simp only [State.robSlots, List.range_succ_eq_map, List.filterMap_cons, List.filterMap_map, State.robIndex_zero hhead, hx]
  rfl

/-- The slots after the retired one are as before, up to where the ROB begins again. -/
theorem State.retireOne_robSlots {s : State} {x : RobSlot} (hhead : s.head < s.cfg.robSize) (hx : s.rob[s.head]? = some x)
    {n : Nat} (hn : n < s.cfg.robSize) : s.robSlots (n + 1) = x :: (s.retireOne x).robSlots n := by
  rw [State.robSlots_succ hhead hx]
  refine congrArg (x :: ·) (List.filterMap_congr fun k hk => ?_)
  have hk' : k < n := List.mem_range.mp hk
  have hne : s.head ≠ s.robIndex (k + 1) := by
    rw [← State.robIndex_zero hhead]
    exact add_mod_ne (by omega) (Nat.succ_pos k)
  rw [State.retireOne_robIndex, State.retireOne_rob, List.getElem?_set_ne hne]

/-! The in-order retirement -/

/-- `n` retirements take `s` to `t`: the `n` slots from `head` on were valid and ready, their records are emitted in order, they are
freed, and `head` is the place after them. -/
structure RetiresInOrder (s t : State) (n : Nat) : Prop where
  le : n ≤ s.cfg.robSize
  taken : ∀ k, k < n → ∃ x : RobSlot, s.rob[s.robIndex k]? = some x ∧ x.valid = true ∧ x.ready = true
  valid : ∀ k, k < s.cfg.robSize →
    (t.rob[s.robIndex k]?).map (·.valid) = if k < n then some false else (s.rob[s.robIndex k]?).map (·.valid)
  out : t.out = s.out ++ (s.robSlots n).map fun x => (x.ins.leave .rt s.cycle).timing
  head : t.head = s.robIndex n

theorem RetiresInOrder.refl {s : State} (hhead : s.head < s.cfg.robSize) : RetiresInOrder s s 0 where
  le := Nat.zero_le _
  taken k hk := absurd hk (Nat.not_lt_zero k)
  valid k hk := by simp
  out := by simp [State.robSlots]
  head := (State.robIndex_zero hhead).symm

/-- One retirement before the others. -/
theorem RetiresInOrder.succ {s t : State} {x : RobSlot} {n : Nat} (hlen : s.rob.length = s.cfg.robSize)
    (hhead : s.head < s.cfg.robSize) (hx : s.rob[s.head]? = some x) (hv : x.valid = true) (hr : x.ready = true)
    (h : RetiresInOrder (s.retireOne x) t n) : RetiresInOrder s t (n + 1) := by
  obtain ⟨hle, htaken, hvalid, hout, hthead⟩ := h
  simp only [State.retireOne_cfg, State.retireOne_robIndex, State.retireOne_rob] at hle htaken hvalid
  have hne {k : Nat} (hk : k + 1 < s.cfg.robSize) : s.head ≠ s.robIndex (k + 1) := by
    rw [← State.robIndex_zero hhead]
    exact add_mod_ne hk (Nat.succ_pos k)
  have hwrap : s.robIndex (s.cfg.robSize - 1 + 1) = s.head := by
    rw [State.robIndex, Nat.sub_add_cancel (by omega), Nat.add_mod_right, Nat.mod_eq_of_lt hhead]
  have hfreed : (s.rob.set s.head { x with valid := false })[s.head]? = some { x with valid := false } :=
    List.getElem?_set_self (by omega)
  have hn : n < s.cfg.robSize := by
    by_contra hge
    obtain ⟨y, hy, hvy, -⟩ := htaken (s.cfg.robSize - 1) (by omega)
    rw [hwrap, hfreed] at hy
    cases hy
    cases hvy
  refine ⟨hn, fun k hk => ?_, fun k hk => ?_, ?_, ?_⟩
  · cases k with
    | zero => exact ⟨x, by rwa [State.robIndex_zero hhead], hv, hr⟩
    | succ k =>
      obtain ⟨y, hy, hvr⟩ := htaken k (by omega)
      exact ⟨y, by rwa [List.getElem?_set_ne (hne (by omega))] at hy, hvr⟩
  · cases k with
    | zero =>
      have hlast := hvalid (s.cfg.robSize - 1) (by omega)
      rw [hwrap, hfreed] at hlast
      rw [State.robIndex_zero hhead, if_pos n.succ_pos, hlast]
      simp
    | succ k =>
      have hrest := hvalid k (by omega)
      rw [List.getElem?_set_ne (hne hk)] at hrest
      simpa using hrest
  · rw [hout, State.retireOne_robSlots hhead hx hn]
    simp
  · rw [hthead, State.retireOne_robIndex]

/-- The loop retires in order and stops short of its limit only at a head that is not valid and ready (rule R176). -/
theorem State.retireLoop_inOrder {s : State} (hlen : s.rob.length = s.cfg.robSize) (hhead : s.head < s.cfg.robSize) (limit : Nat) :
    ∃ n, n ≤ limit ∧ RetiresInOrder s (s.retireLoop limit) n ∧ (n < limit → ∀ y : RobSlot,
      (s.retireLoop limit).rob[(s.retireLoop limit).head]? = some y → (y.valid && y.ready) = false) := by
  induction limit generalizing s with
  | zero => exact ⟨0, Nat.le_refl 0, .refl hhead, fun h => absurd h (Nat.not_lt_zero 0)⟩
  | succ limit ih =>
    by_cases hready : ∃ x, s.rob[s.head]? = some x ∧ (x.valid && x.ready) = true
    · obtain ⟨x, hx, hvr⟩ := hready
      obtain ⟨hv, hr⟩ := Bool.and_eq_true_iff.mp hvr
      obtain ⟨n, hn, horder, hstop⟩ := ih (s := s.retireOne x) (by simpa using hlen) (robSucc_lt s.cfg s.head (by omega))
      rw [State.retireLoop_succ_of_ready hx hvr]
      exact ⟨n + 1, by omega, horder.succ hlen hhead hx hv hr, fun hlt => hstop (by omega)⟩
    · have hstop : ∀ x, s.rob[s.head]? = some x → (x.valid && x.ready) = false := by simpa using hready
      rw [State.retireLoop_of_stopped hstop]
      exact ⟨0, Nat.zero_le _, .refl hhead, fun _ => hstop⟩

/-- Settles O39: the loop on the stamped slots; the stamp changes no valid bit and no ready bit. -/
theorem retireIsInOrder : Obligations.RetireIsInOrder := by
  intro s hlen hhead
  have hstamped (j : Nat) : s.stampedForRetire.rob[j]? = (s.rob[j]?).map fun x => x.stampRetire s.cycle := List.getElem?_map ..
  have hindex (k : Nat) : s.stampedForRetire.robIndex k = s.robIndex k := rfl
  obtain ⟨n, hn, ⟨hle, htaken, hvalid, hout, hnext⟩, hstop⟩ :=
    State.retireLoop_inOrder (s := s.stampedForRetire) ((List.length_map ..).trans hlen) hhead s.cfg.width
  simp only [hstamped, hindex, Option.map_map] at htaken hvalid
  have htaken' {k : Nat} (hk : k < n) : ∃ x : RobSlot, s.rob[s.robIndex k]? = some x ∧ x.valid = true ∧ x.ready = true := by
    obtain ⟨y, hy, hv, hr⟩ := htaken k hk
    obtain ⟨x, hx, rfl⟩ := Option.map_eq_some_iff.mp hy
    exact ⟨x, hx, by simpa using hv, by simpa using hr⟩
  refine ⟨n, hn, hle, fun k hk => ?_, fun k hnk hk => ?_, ?_, hnext, hstop⟩
  · obtain ⟨x, hx, hv, hr⟩ := htaken' hk
    have hfreed := hvalid k (Nat.lt_of_lt_of_le hk hle)
    rw [if_pos hk] at hfreed
    obtain ⟨y, hy, hvy⟩ := Option.map_eq_some_iff.mp hfreed
    exact ⟨x, y, hx, hv, hr, hy, hvy⟩
  · have hkept := hvalid k hk
    rw [if_neg (by omega)] at hkept
    refine hkept.trans ?_
    cases s.rob[s.robIndex k]? <;> simp
  · have hslots : (s.stampedForRetire.robSlots n).map (fun x => (x.ins.leave .rt s.cycle).timing) =
        (s.robSlots n).map fun x => ((x.ins.stamp .rt s.cycle).leave .rt s.cycle).timing := by
      simp only [State.robSlots, hstamped, hindex, List.map_filterMap, Option.map_map]
      refine List.filterMap_congr fun k hk => ?_
      obtain ⟨x, hx, hv, hr⟩ := htaken' (List.mem_range.mp hk)
      simp [hx, RobSlot.stampRetire_of_ready (x := x) (by simp [hv, hr])]
    exact hout.trans (congrArg _ hslots)

end Sys2Proof.Machine
end

section
/-!
PROOFS. Writeback (rules R170 to R172): the slot it locates, the drain, and O37.
-/

namespace Sys2Proof.Machine

/-- No two occupied slots hold one sequence number (rule R32). -/
def UniqueSeqs (rob : List RobSlot) : Prop :=
  ∀ (j k : Nat) (x y : RobSlot), rob[j]? = some x → rob[k]? = some y → x.valid = true → y.valid = true →
    x.ins.seq = y.ins.seq → j = k

theorem RobSlot.holds_iff (x : RobSlot) (n : Nat) : x.holds n = true ↔ x.valid = true ∧ x.ins.seq = n := by
  simp [RobSlot.holds]

/-- The slot after Writeback of the record `i` into it (rule R171). -/
def RobSlot.written (x : RobSlot) (i : InsRec) : RobSlot := { x with ready := true, ins := i }

@[simp] theorem writebackRob_length (rob : List RobSlot) (i : InsRec) : (writebackRob rob i).length = rob.length := by
  induction rob with
  | nil => rfl
  | cons x rob ih =>
    simp only [writebackRob]
    split <;> simp [ih]

/-- A slot that does not hold the sequence number is as before. -/
theorem writebackRob_get_other {rob : List RobSlot} {i : InsRec} {k : Nat} {x : RobSlot} (hx : rob[k]? = some x)
    (h : x.holds i.seq = false) : (writebackRob rob i)[k]? = some x := by
  induction rob generalizing k with
  | nil => simp at hx
  | cons z rob ih =>
    simp only [writebackRob]
    cases k with
    | zero =>
      obtain rfl : z = x := by simpa using hx
      simp [h]
    | succ k =>
      split
      · simpa using hx
      · simpa using ih (by simpa using hx)

/-- The only slot that holds the sequence number gets the record (rule R171). -/
theorem writebackRob_get_holder {rob : List RobSlot} {i : InsRec} {k : Nat} {x : RobSlot} (hx : rob[k]? = some x)
    (h : x.holds i.seq = true) (honly : ∀ (j : Nat) (y : RobSlot), rob[j]? = some y → y.holds i.seq = true → j = k) :
    (writebackRob rob i)[k]? = some (x.written i) := by
  induction rob generalizing k with
  | nil => simp at hx
  | cons z rob ih =>
    simp only [writebackRob]
    cases k with
    | zero =>
      obtain rfl : z = x := by simpa using hx
      simp [h, RobSlot.written]
    | succ k =>
      have hz : z.holds i.seq = false := Bool.eq_false_iff.mpr fun hz => Nat.succ_ne_zero k (honly 0 z rfl hz).symm
      rw [if_neg (by simp [hz])]
      exact ih (by simpa using hx) fun j y hy hh => Nat.succ_inj.mp (honly (j + 1) y (by simpa using hy) hh)

/-- What Writeback of one record makes of a slot, where sequence numbers are unique. -/
theorem writebackRob_get {rob : List RobSlot} (hunique : UniqueSeqs rob) {i : InsRec} {k : Nat} {x : RobSlot}
    (hx : rob[k]? = some x) : (writebackRob rob i)[k]? = some (if x.holds i.seq then x.written i else x) := by
  cases hholds : x.holds i.seq with
  | false => simpa using writebackRob_get_other hx hholds
  | true =>
    obtain ⟨hv, hseq⟩ := (x.holds_iff _).mp hholds
    refine writebackRob_get_holder hx hholds fun j y hy hh => ?_
    obtain ⟨hvy, hseqy⟩ := (y.holds_iff _).mp hh
    exact hunique j k y x hy hx hvy hv (hseqy.trans hseq.symm)

/-- A slot of the result comes from the slot of the same index. -/
theorem writebackRob_source {rob : List RobSlot} (hunique : UniqueSeqs rob) {i : InsRec} {k : Nat} {y : RobSlot}
    (hy : (writebackRob rob i)[k]? = some y) : ∃ x, rob[k]? = some x ∧ y = if x.holds i.seq then x.written i else x := by
  obtain ⟨hk, -⟩ := List.getElem?_eq_some_iff.mp hy
  rw [writebackRob_length] at hk
  have hx := List.getElem?_eq_getElem hk
  exact ⟨_, hx, Option.some.inj (hy.symm.trans (writebackRob_get hunique hx))⟩

/-- Writeback of a record leaves the valid bit and the sequence number of every slot. -/
theorem RobSlot.written_keeps {x : RobSlot} {i : InsRec} :
    (if x.holds i.seq then x.written i else x).valid = x.valid ∧
      (x.valid = true → (if x.holds i.seq then x.written i else x).ins.seq = x.ins.seq) := by
  cases h : x.holds i.seq with
  | false => exact ⟨rfl, fun _ => rfl⟩
  | true => exact ⟨rfl, fun _ => ((x.holds_iff _).mp h).2.symm⟩

theorem UniqueSeqs.writebackRob {rob : List RobSlot} (h : UniqueSeqs rob) (i : InsRec) : UniqueSeqs (writebackRob rob i) := by
  intro j k x' y' hx' hy' hvx hvy hseq
  obtain ⟨x, hx, rfl⟩ := writebackRob_source h hx'
  obtain ⟨y, hy, rfl⟩ := writebackRob_source h hy'
  rw [RobSlot.written_keeps.1] at hvx hvy
  rw [RobSlot.written_keeps.2 hvx, RobSlot.written_keeps.2 hvy] at hseq
  exact h j k x y hx hy hvx hvy hseq

/-! The drain -/

section
variable {rob : List RobSlot} {b : List InsRec} {k c : Nat} {x : RobSlot}

@[simp] theorem writebackAll_length (c : Nat) (b : List InsRec) (rob : List RobSlot) :
    (writebackAll c b rob).length = rob.length := by
  induction b generalizing rob with
  | nil => rfl
  | cons i b ih => rw [writebackAll, ih, writebackRob_length]

/-- A slot whose sequence number is in no record of WB is as before. -/
theorem writebackAll_get_other (hx : rob[k]? = some x) (h : ∀ i ∈ b, x.holds i.seq = false) :
    (writebackAll c b rob)[k]? = some x := by
  induction b generalizing rob with
  | nil => exact hx
  | cons i b ih =>
    obtain ⟨hi, hb⟩ := List.forall_mem_cons.mp h
    exact ih (writebackRob_get_other hx hi) hb

/-- The slot that holds the sequence number of a record of WB gets it, with its duration (rule R171). -/
theorem writebackAll_get_holder (hunique : UniqueSeqs rob) (hnodup : (b.map fun i => i.seq).Nodup) (hx : rob[k]? = some x)
    {i : InsRec} (hi : i ∈ b) (h : x.holds i.seq = true) :
    (writebackAll c b rob)[k]? = some (x.written (i.leave .wb c)) := by
  induction b generalizing rob with
  | nil => simp at hi
  | cons j b ih =>
    rw [List.map_cons, List.nodup_cons] at hnodup
    have hget := writebackRob_get hunique (i := j.leave .wb c) hx
    obtain ⟨hv, hseq⟩ := (x.holds_iff _).mp h
    rcases List.mem_cons.mp hi with rfl | hi
    · rw [InsRec.leave_seq, h, if_pos rfl] at hget
      rw [writebackAll]
      refine writebackAll_get_other hget fun m hm => Bool.eq_false_iff.mpr fun hholds => hnodup.1 ?_
      have hm' : i.seq = m.seq := ((RobSlot.holds_iff _ _).mp hholds).2
      exact hm' ▸ List.mem_map_of_mem hm
    · have hne : x.holds j.seq = false := Bool.eq_false_iff.mpr fun hholds => hnodup.1 (by
        rw [← ((x.holds_iff _).mp hholds).2, hseq]
        exact List.mem_map_of_mem hi)
      rw [InsRec.leave_seq, hne, if_neg Bool.false_ne_true] at hget
      exact ih (hunique.writebackRob _) hnodup.2 hget hi

end

/-- Settles O37: the drain of the stamped WB; a record in flight owns a slot with its sequence number. -/
theorem writebackDrainsBuffer : Obligations.WritebackDrainsBuffer := by
  intro s hnodup hunique
  have hnodup' : ((stampAll s.wb .wb s.cycle).map fun i => i.seq).Nodup := by simpa [stampAll, Function.comp_def] using hnodup
  have hholder : ∀ i ∈ s.wb, ∀ (k : Nat) (x : RobSlot), s.rob[k]? = some x → x.valid = true → x.ins.seq = i.seq →
      s.writeback.rob[k]? = some { x with ready := true, ins := (i.stamp .wb s.cycle).leave .wb s.cycle } := by
    intro i hi k x hx hv hseq
    have hmem : i.stamp .wb s.cycle ∈ stampAll s.wb .wb s.cycle := List.mem_map_of_mem hi
    exact writebackAll_get_holder hunique hnodup' hx hmem ((x.holds_iff _).mpr ⟨hv, hseq⟩)
  refine ⟨rfl, hholder, fun k x hx hother => ?_, fun hflight i hi => ?_⟩
  · refine writebackAll_get_other hx fun j hj => Bool.eq_false_iff.mpr fun hholds => ?_
    obtain ⟨i, hi, rfl⟩ := List.mem_map.mp hj
    obtain ⟨hv, hseq⟩ := (x.holds_iff _).mp hholds
    exact hother i hi hv hseq
  · obtain ⟨k, x, htag, hx, hv, -, hsame, -⟩ := hflight.owns i (mem_travelling.mpr (.inr hi))
    exact ⟨k, x, htag, hx, hholder i hi k x hx hv hsame.seq⟩

end Sys2Proof.Machine
end

section
/-!
PROOFS. The frames of the stage operations as one equation each, an invariant through one step, and array sizes, pointer ranges and
buffer capacities (rules R30, R31, R35, R38): O41, O42.
-/

namespace Sys2Proof.Machine

/-! Frames -/

/-- Issue writes EXL and the IQ (rule R153). -/
theorem State.issue_frame (s : State) : s.issue = { s with exl := s.issue.exl, iq := s.issue.iq } := by
  unfold State.issue
  split
  · rfl
  · obtain ⟨slots, l, -, hloop⟩ :=
      State.issueLoop_selections { s with iq := s.iq.map fun (x : IqSlot) => x.stampIssue s.cycle } s.cfg.width
    rw [hloop]

theorem State.dispatchLoop_frame (s : State) (b : List InsRec) :
    s.dispatchLoop b = { s with di := (s.dispatchLoop b).di, iq := (s.dispatchLoop b).iq } := by
  induction b generalizing s with
  | nil => rfl
  | cons i b ih =>
    simp only [State.dispatchLoop]
    split
    · rfl
    · exact ih { s with iq := _ }

/-- Dispatch writes DI and the IQ (rule R143). -/
theorem State.dispatch_frame (s : State) : s.dispatch = { s with di := s.dispatch.di, iq := s.dispatch.iq } := by
  unfold State.dispatch
  split
  · exact s.dispatchLoop_frame _
  · rfl

/-! An invariant through one step -/

/-- What the eight stages, Fetch and the increment of the cycle counter keep, a step keeps (rules R110 to R112). -/
theorem step_keeps_of {P : State → Prop} {s t : State} (hstages : s.cfg.wellFormed = true → P s.stages)
    (hfetch : ∀ {u v : State}, P u → fetch u = .next v → P v) (hadvance : ∀ {u : State}, P u → P u.advance)
    (h : P s) (hstep : step s = .next t) : P t := by
  obtain ⟨hcfg, ⟨-, rfl⟩ | ⟨-, u, hu, rfl⟩⟩ := step_cases hstep
  · exact h
  · exact hadvance (hfetch (hstages hcfg) hu)

theorem Config.wellFormed_iff (c : Config) : c.wellFormed = true ↔ 0 < c.robSize ∧ 0 < c.iqSize ∧ 0 < c.width := by
  simp [Config.wellFormed, and_assoc]

/-! Sizes -/

theorem State.dispatchLoop_iq_length (s : State) (b : List InsRec) : (s.dispatchLoop b).iq.length = s.iq.length := by
  induction b generalizing s with
  | nil => rfl
  | cons i b ih =>
    simp only [State.dispatchLoop]
    split
    · rfl
    · rw [ih]
      exact List.length_set

theorem State.dispatchLoop_di_length (s : State) (b : List InsRec) : (s.dispatchLoop b).di.length ≤ b.length := by
  induction b generalizing s with
  | nil => exact Nat.le_refl 0
  | cons i b ih =>
    simp only [State.dispatchLoop]
    split
    · exact Nat.le_refl _
    · exact Nat.le_succ_of_le (ih _)

theorem State.dispatch_lengths (s : State) : s.dispatch.iq.length = s.iq.length ∧ s.dispatch.di.length ≤ s.di.length := by
  have hstamp : (stampAll s.di .di s.cycle).length = s.di.length := stampAll_length ..
  unfold State.dispatch
  split
  · exact ⟨s.dispatchLoop_iq_length _, hstamp ▸ s.dispatchLoop_di_length _⟩
  · exact ⟨rfl, hstamp.le⟩

theorem State.issue_iq_length (s : State) : s.issue.iq.length = s.iq.length := by
  unfold State.issue
  split
  · rfl
  · obtain ⟨slots, l, -, hloop⟩ :=
      State.issueLoop_selections { s with iq := s.iq.map fun (x : IqSlot) => x.stampIssue s.cycle } s.cfg.width
    rw [hloop]
    simp

section
variable {s : State}

theorem Sized.robSize_pos (h : Sized s) : 0 < s.cfg.robSize := ((Config.wellFormed_iff _).mp h.cfg).1

theorem Sized.retire (h : Sized s) : Sized s.retire := by
  have hrob : s.retire.rob.length = s.rob.length :=
    (s.stampedForRetire.retireLoop_slot s.cfg.width).1.trans (List.length_map ..)
  have hhead : s.retire.head < s.cfg.robSize := by
    refine (State.retireLoop_induction (s := s.stampedForRetire) (P := fun t => t.cfg = s.cfg ∧ t.head < s.cfg.robSize) ?_
      ⟨rfl, h.head⟩ s.cfg.width).2
    rintro t x ⟨hcfg, -⟩ - - -
    exact ⟨hcfg, hcfg ▸ robSucc_lt t.cfg t.head (hcfg ▸ h.robSize_pos)⟩
  rw [s.retire_frame]
  exact { h with rob := hrob.trans h.rob, head := hhead }

theorem Sized.writeback (h : Sized s) : Sized s.writeback :=
  { h with rob := (writebackAll_length ..).trans h.rob, wb := Nat.zero_le _ }

theorem Sized.execute (h : Sized s) : Sized s.execute := by
  have hwb : s.execute.wb.length ≤ s.cfg.wbCap := by
    have hbound := (State.completeLoop_wb_bound { s with exl := [] } (s.exl.map fun e => e.countDown s.cycle)).2
    exact hbound.trans (Nat.max_le.mpr ⟨h.wb, Nat.le_refl _⟩)
  rw [s.execute_frame]
  exact { h with
    iq := (List.length_map ..).trans h.iq
    di := (List.length_map ..).le.trans h.di
    rr := (List.length_map ..).le.trans h.rr
    wb := hwb }

theorem Sized.issue (h : Sized s) : Sized s.issue := by
  have hiq := s.issue_iq_length
  rw [s.issue_frame]
  exact { h with iq := hiq.trans h.iq }

theorem Sized.dispatch (h : Sized s) : Sized s.dispatch := by
  obtain ⟨hiq, hdi⟩ := s.dispatch_lengths
  rw [s.dispatch_frame]
  exact { h with iq := hiq.trans h.iq, di := hdi.trans h.di }

/-- The moves "while B has room" keep within the capacities. -/
theorem moves_length_le {n : Nat} {b dst : List InsRec} (hb : b.length ≤ n) (hdst : dst.length ≤ n) (st : Stage) (c : Nat)
    (f : InsRec → InsRec) :
    ((stampAll b st c).drop (n - dst.length)).length ≤ n ∧
      (dst ++ ((stampAll b st c).take (n - dst.length)).map f).length ≤ n := by
  simp only [List.length_append, List.length_map, List.length_take, List.length_drop, stampAll_length]
  omega

theorem Sized.regRead (h : Sized s) : Sized s.regRead := by
  obtain ⟨hrr, hdi⟩ := moves_length_le h.rr h.di .rr s.cycle fun i => i.regRead s.rob s.cycle
  rw [s.regRead_eq]
  exact { h with rr := hrr, di := hdi }

theorem Sized.rename (h : Sized s) : Sized s.rename := by
  by_cases hfree : s.robFree < s.cfg.width
  · rw [State.rename_of_full hfree]
    exact { h with rn := (stampAll_length ..).le.trans h.rn }
  · obtain ⟨hrn, hrr⟩ := moves_length_le h.rn h.rr .rn s.cycle id
    rw [List.map_id, List.length_append, ← State.renameAll_rr_length] at hrr
    have htail := Nat.mod_lt (s.tail + ((stampAll s.rn .rn s.cycle).take (s.cfg.width - s.rr.length)).length) h.robSize_pos
    rw [← State.renameAll_tail h.tail] at htail
    have hrob := State.renameAll_rob_length s ((stampAll s.rn .rn s.cycle).take (s.cfg.width - s.rr.length))
    rw [State.rename_of_admits (by omega), State.renameAll_frame]
    exact { h with rob := hrob.trans h.rob, tail := htail, rr := hrr, rn := hrn }

theorem Sized.decode (h : Sized s) : Sized s.decode := by
  obtain ⟨hde, hrn⟩ := moves_length_le h.de h.rn .de s.cycle fun i => i.leave .de s.cycle
  rw [s.decode_eq]
  exact { h with de := hde, rn := hrn }

theorem Sized.stages (h : Sized s) : Sized s.stages :=
  h.retire.writeback.execute.issue.dispatch.regRead.rename.decode

theorem Sized.fetch {t : State} (h : Sized s) (hfetch : fetch s = .next t) : Sized t := by
  cases hlatch : s.traceDone with
  | true =>
    rw [fetch_of_traceDone hlatch] at hfetch
    exact Host.Outcome.next.inj hfetch ▸ h
  | false =>
    obtain ⟨l, lines, rest, htakes⟩ := fetch_takes hlatch hfetch
    have hroom := htakes.room
    have hde : s.de.length ≤ s.cfg.width := h.de
    rw [htakes.result]
    refine { h with de := ?_ }
    show _ ≤ s.cfg.width
    simp only [List.length_append, List.length_map, List.length_zipIdx]
    omega

theorem Sized.advance (h : Sized s) : Sized s.advance := { h with }

theorem Sized.step {t : State} (h : Sized s) (hstep : step s = .next t) : Sized t :=
  step_keeps_of (fun _ => h.stages) Sized.fetch Sized.advance h hstep

end

/-- Settles O42: each of the nine stage operations keeps the sizes. -/
theorem sizesAreKept : Obligations.SizesAreKept := fun _ _ h hstep => h.step hstep

theorem sized_start {cfg : Config} (h : cfg.wellFormed = true) (trace : List TraceLine) : Sized (State.start cfg trace) where
  cfg := h
  rob := List.length_replicate
  iq := List.length_replicate
  head := ((Config.wellFormed_iff _).mp h).1
  tail := ((Config.wellFormed_iff _).mp h).1
  de := Nat.zero_le _
  rn := Nat.zero_le _
  rr := Nat.zero_le _
  di := Nat.zero_le _
  wb := Nat.zero_le _

/-- Settles O41: empty buffers and arrays of the configured sizes. -/
theorem sizesHoldAtStart : Obligations.SizesHoldAtStart := fun _ trace h => sized_start h trace

end Sys2Proof.Machine
end

section
/-!
PROOFS. Program order (rules R32, R122, R241): where each sequence number stands, what of the state program order depends on, the
stage operations that change it, and O44.
-/

namespace Sys2Proof.Machine

/-! Where the sequence numbers stand -/

/-- Program order with `n` occupied slots. -/
structure Ordered (s : State) (n : Nat) : Prop where
  occupied : Occupied s n
  seqs : s.programSeqs n = List.range s.seqNext

theorem programOrder_iff {s : State} : ProgramOrder s ↔ ∃ n, Ordered s n :=
  ⟨fun ⟨n, hocc, hseqs⟩ => ⟨n, hocc, hseqs⟩, fun ⟨n, hocc, hseqs⟩ => ⟨n, hocc, hseqs⟩⟩

theorem getElem?_filterMap_range {α : Type} {f : Nat → Option α} {n : Nat} (h : ∀ k, k < n → ∃ x, f k = some x) :
    ((List.range n).filterMap f).length = n ∧ ∀ k, k < n → ((List.range n).filterMap f)[k]? = f k := by
  induction n with
  | zero => exact ⟨rfl, fun k hk => absurd hk (Nat.not_lt_zero k)⟩
  | succ n ih =>
    obtain ⟨hlen, hget⟩ := ih fun k hk => h k (Nat.lt_succ_of_lt hk)
    obtain ⟨x, hx⟩ := h n n.lt_succ_self
    have hsplit : (List.range (n + 1)).filterMap f = (List.range n).filterMap f ++ [x] := by
      simp [List.range_succ, List.filterMap_append, hx]
    refine ⟨by simp [hsplit, hlen], fun k hk => ?_⟩
    rw [hsplit]
    rcases Nat.lt_succ_iff_lt_or_eq.mp hk with hlt | rfl
    · rw [List.getElem?_append_left (by omega), hget k hlt]
    · rw [List.getElem?_append_right (by omega), hlen, Nat.sub_self, hx]
      rfl

section
variable {s : State} {n : Nat}

theorem Occupied.slot (h : Occupied s n) {k : Nat} (hk : k < s.cfg.robSize) :
    ∃ x, s.rob[s.robIndex k]? = some x ∧ x.valid = decide (k < n) := by
  obtain ⟨x, hx, hv⟩ := Option.map_eq_some_iff.mp (h.valid k hk)
  exact ⟨x, hx, hv⟩

/-- Every slot is some places after `head`, and it is occupied exactly within the first `n`. -/
theorem Occupied.place (h : Occupied s n) {j : Nat} {x : RobSlot} (hlen : s.rob.length = s.cfg.robSize) (hx : s.rob[j]? = some x) :
    ∃ k, k < s.cfg.robSize ∧ s.robIndex k = j ∧ x.valid = decide (k < n) := by
  obtain ⟨hj, -⟩ := List.getElem?_eq_some_iff.mp hx
  obtain ⟨k, hk, rfl⟩ := State.exists_robIndex (hlen ▸ hj)
  obtain ⟨y, hy, hv⟩ := h.slot hk
  obtain rfl := Option.some.inj (hy.symm.trans hx)
  exact ⟨k, hk, rfl, hv⟩

theorem Occupied.robSlots_get (h : Occupied s n) :
    (s.robSlots n).length = n ∧ ∀ k, k < n → (s.robSlots n)[k]? = s.rob[s.robIndex k]? :=
  getElem?_filterMap_range fun k hk => by
    obtain ⟨x, hx, -⟩ := h.slot (Nat.lt_of_lt_of_le hk h.le)
    exact ⟨x, hx⟩

theorem getElem?_range_eq {m k v : Nat} (h : (List.range m)[k]? = some v) : v = k := by
  obtain ⟨hk, hget⟩ := List.getElem?_eq_some_iff.mp h
  simpa using hget.symm

/-- The number at each place of the machine, counted from the oldest emitted record on. -/
theorem Ordered.seq_at (h : Ordered s n) {k v : Nat} (hk : (s.programSeqs n)[k]? = some v) : v = k :=
  getElem?_range_eq (h.seqs ▸ hk)

/-- The `k`-th emitted record is number `k` (rule R241). -/
theorem Ordered.out_seq (h : Ordered s n) {k : Nat} {o : TimingRecord} (ho : s.out[k]? = some o) : o.seq = k := by
  obtain ⟨hk, -⟩ := List.getElem?_eq_some_iff.mp ho
  refine h.seq_at ?_
  rw [State.programSeqs, List.append_assoc, List.append_assoc, List.getElem?_append_left (by simpa using hk)]
  simp [ho]

/-- The slot `k` places after `head` holds the `k`-th number after those emitted (rule R32). -/
theorem Ordered.slot_seq (h : Ordered s n) {k : Nat} {x : RobSlot} (hk : k < n) (hx : s.rob[s.robIndex k]? = some x) :
    x.ins.seq = s.out.length + k := by
  obtain ⟨hlen, hget⟩ := h.occupied.robSlots_get
  refine h.seq_at ?_
  rw [State.programSeqs, List.append_assoc, List.append_assoc, List.getElem?_append_right (by simp), List.length_map,
    Nat.add_sub_cancel_left, List.getElem?_append_left (by simpa [hlen] using hk), List.getElem?_map, hget k hk, hx]
  rfl

/-- The `k`-th record of RN is number `k` after those emitted and those in the ROB. -/
theorem Ordered.rn_seq (h : Ordered s n) {k : Nat} {i : InsRec} (hi : s.rn[k]? = some i) : i.seq = s.out.length + n + k := by
  obtain ⟨hlen, -⟩ := h.occupied.robSlots_get
  obtain ⟨hk, -⟩ := List.getElem?_eq_some_iff.mp hi
  refine h.seq_at ?_
  rw [State.programSeqs, List.append_assoc, List.getElem?_append_right (by simp [hlen]), List.length_append, List.length_map,
    List.length_map, hlen, Nat.add_sub_cancel_left, List.getElem?_append_left (by simpa using hk), List.getElem?_map, hi]
  rfl

/-- An occupied slot and its place. -/
theorem Ordered.valid_seq (h : Ordered s n) (hlen : s.rob.length = s.cfg.robSize) {j : Nat} {x : RobSlot}
    (hx : s.rob[j]? = some x) (hv : x.valid = true) : ∃ k, k < n ∧ s.robIndex k = j ∧ x.ins.seq = s.out.length + k := by
  obtain ⟨k, hk, rfl, hvk⟩ := h.occupied.place hlen hx
  have hkn : k < n := by simpa [hv] using hvk.symm
  exact ⟨k, hkn, rfl, h.slot_seq hkn hx⟩

theorem Ordered.unique (h : Ordered s n) (hlen : s.rob.length = s.cfg.robSize) : UniqueSeqs s.rob := by
  intro i j x y hx hy hvx hvy hseq
  obtain ⟨k, -, rfl, hk⟩ := h.valid_seq hlen hx hvx
  obtain ⟨m, -, rfl, hm⟩ := h.valid_seq hlen hy hvy
  have hkm : k = m := by omega
  rw [hkm]

/-- The slot at `head` is the oldest (rule R241). -/
theorem Ordered.head_lt (h : Ordered s n) (hlen : s.rob.length = s.cfg.robSize) (hhead : s.head < s.cfg.robSize) {j : Nat}
    {x y : RobSlot} (hx : s.rob[s.head]? = some x) (hvx : x.valid = true) (hy : s.rob[j]? = some y) (hvy : y.valid = true)
    (hj : j ≠ s.head) : x.ins.seq < y.ins.seq := by
  obtain ⟨k, hk, hk', hkseq⟩ := h.valid_seq hlen hx hvx
  obtain ⟨m, hm, rfl, hmseq⟩ := h.valid_seq hlen hy hvy
  have hle := h.occupied.le
  rw [← State.robIndex_zero hhead] at hk' hj
  have hk0 : k = 0 := State.robIndex_inj (by omega) (by omega) hk'
  have hm0 : m ≠ 0 := fun e => hj (by rw [e])
  omega

/-- Every emitted record is older than every instruction in the ROB. -/
theorem Ordered.out_lt (h : Ordered s n) (hlen : s.rob.length = s.cfg.robSize) {o : TimingRecord} (ho : o ∈ s.out) {j : Nat}
    {x : RobSlot} (hx : s.rob[j]? = some x) (hv : x.valid = true) : o.seq < x.ins.seq := by
  obtain ⟨m, hm⟩ := List.mem_iff_getElem?.mp ho
  obtain ⟨hlt, -⟩ := List.getElem?_eq_some_iff.mp hm
  obtain ⟨k, -, -, hseq⟩ := h.valid_seq hlen hx hv
  have := h.out_seq hm
  omega

end

/-! What program order depends on -/

/-- The part of the state that program order reads. -/
structure OrderView where
  cfg : Config
  head : Nat
  tail : Nat
  slots : List (Bool × Nat)
  out : List Nat
  waiting : List Nat
  seqNext : Nat

def State.orderView (s : State) : OrderView where
  cfg := s.cfg
  head := s.head
  tail := s.tail
  slots := s.rob.map fun x => (x.valid, x.ins.seq)
  out := s.out.map (·.seq)
  waiting := s.rn.map (·.seq) ++ s.de.map (·.seq)
  seqNext := s.seqNext

theorem Ordered.of_view {s t : State} {n : Nat} (h : Ordered s n) (hview : t.orderView = s.orderView) : Ordered t n := by
  obtain ⟨⟨hle, htail, hvalid⟩, hseqs⟩ := h
  have hcfg : t.cfg = s.cfg := congrArg OrderView.cfg hview
  have hhead : t.head = s.head := congrArg OrderView.head hview
  have htail' : t.tail = s.tail := congrArg OrderView.tail hview
  have hrob : (t.rob.map fun x => (x.valid, x.ins.seq)) = s.rob.map fun x => (x.valid, x.ins.seq) := congrArg OrderView.slots hview
  have hout : t.out.map (·.seq) = s.out.map (·.seq) := congrArg OrderView.out hview
  have hwaiting : t.rn.map (·.seq) ++ t.de.map (·.seq) = s.rn.map (·.seq) ++ s.de.map (·.seq) := congrArg OrderView.waiting hview
  have hnext : t.seqNext = s.seqNext := congrArg OrderView.seqNext hview
  have hindex (k : Nat) : t.robIndex k = s.robIndex k := by rw [State.robIndex, State.robIndex, hcfg, hhead]
  have hslot (j : Nat) : (t.rob[j]?).map (fun x => (x.valid, x.ins.seq)) = (s.rob[j]?).map fun x => (x.valid, x.ins.seq) := by
    rw [← List.getElem?_map, hrob, List.getElem?_map]
  have hslots : (t.robSlots n).map (·.ins.seq) = (s.robSlots n).map (·.ins.seq) := by
    simp only [State.robSlots, List.map_filterMap, hindex]
    refine List.filterMap_congr fun k _ => ?_
    simpa [Function.comp_def] using congrArg (Option.map Prod.snd) (hslot (s.robIndex k))
  refine ⟨⟨hcfg ▸ hle, by rw [htail', htail, hindex], fun k hk => ?_⟩, ?_⟩
  · rw [hindex, ← hvalid k (hcfg ▸ hk)]
    simpa [Function.comp_def] using congrArg (Option.map Prod.fst) (hslot (s.robIndex k))
  · rw [State.programSeqs, List.append_assoc] at hseqs
    rw [State.programSeqs, List.append_assoc, hslots, hout, hwaiting, hnext, hseqs]

theorem ProgramOrder.of_view {s t : State} (h : ProgramOrder s) (hview : t.orderView = s.orderView) : ProgramOrder t := by
  obtain ⟨n, hn⟩ := programOrder_iff.mp h
  exact programOrder_iff.mpr ⟨n, hn.of_view hview⟩

/-! Stages that keep the view -/

section
variable {s : State}

theorem ProgramOrder.execute (h : ProgramOrder s) : ProgramOrder s.execute := h.of_view (by simp [State.orderView])
theorem ProgramOrder.issue (h : ProgramOrder s) : ProgramOrder s.issue := h.of_view (by simp [State.orderView])
theorem ProgramOrder.dispatch (h : ProgramOrder s) : ProgramOrder s.dispatch := h.of_view (by simp [State.orderView])
theorem ProgramOrder.regRead (h : ProgramOrder s) : ProgramOrder s.regRead := h.of_view (by simp [State.orderView])
theorem ProgramOrder.advance (h : ProgramOrder s) : ProgramOrder s.advance := h.of_view rfl

theorem map_seq_stampAll (b : List InsRec) (st : Stage) (c : Nat) : (stampAll b st c).map (·.seq) = b.map (·.seq) := by
  simp [stampAll, Function.comp_def]

theorem ProgramOrder.decode (h : ProgramOrder s) : ProgramOrder s.decode :=
  h.of_view (by simp [s.decode_eq, State.orderView, Function.comp_def, map_seq_stampAll])

@[simp] theorem RobSlot.stampRetire_seq (x : RobSlot) (c : Nat) : (x.stampRetire c).ins.seq = x.ins.seq := by
  unfold RobSlot.stampRetire
  split <;> rfl

/-- The stamps of Retire keep what program order reads (rule R175). -/
theorem State.stampedForRetire_orderView (s : State) : s.stampedForRetire.orderView = s.orderView := by
  simp [State.orderView, State.stampedForRetire, Function.comp_def]

theorem map_view_writebackRob (rob : List RobSlot) (i : InsRec) :
    ((writebackRob rob i).map fun x => (x.valid, x.ins.seq)) = rob.map fun x => (x.valid, x.ins.seq) := by
  induction rob with
  | nil => rfl
  | cons x rob ih =>
    simp only [writebackRob]
    split
    next hholds => simp [((x.holds_iff _).mp hholds).2]
    next => rw [List.map_cons, List.map_cons, ih]

theorem map_view_writebackAll (c : Nat) (b : List InsRec) (rob : List RobSlot) :
    ((writebackAll c b rob).map fun x => (x.valid, x.ins.seq)) = rob.map fun x => (x.valid, x.ins.seq) := by
  induction b generalizing rob with
  | nil => rfl
  | cons i b ih => rw [writebackAll, ih, map_view_writebackRob]

/-- Writeback copies each record into the slot that holds its number already (rule R171). -/
theorem ProgramOrder.writeback (h : ProgramOrder s) : ProgramOrder s.writeback :=
  h.of_view (by simp [State.orderView, State.writeback, map_view_writebackAll])

/-! Retire -/

@[simp] theorem InsRec.timing_seq (i : InsRec) : i.timing.seq = i.seq := rfl

/-- An occupied head means that there is an occupied slot. -/
theorem Occupied.pos_of_head {n : Nat} {x : RobSlot} (h : Occupied s n) (hlen : s.rob.length = s.cfg.robSize)
    (hx : s.rob[s.head]? = some x) (hv : x.valid = true) : 0 < n := by
  obtain ⟨k, hk, hindex, hvk⟩ := h.place hlen hx
  have hkn : k < n := by simpa [hv] using hvk.symm
  omega

/-- Retirement of the oldest instruction (rules R177 to R179). -/
theorem Ordered.retireOne {n : Nat} {x : RobSlot} (h : Ordered s (n + 1)) (hsized : Sized s) (hx : s.rob[s.head]? = some x) :
    Ordered (s.retireOne x) n := by
  obtain ⟨⟨hle, htail, hvalid⟩, hseqs⟩ := h
  refine ⟨⟨by rw [State.retireOne_cfg]; omega, ?_, fun k hk => ?_⟩, ?_⟩
  · rw [State.retireOne_tail, State.retireOne_robIndex, htail]
  · rw [State.retireOne_cfg] at hk
    rw [State.retireOne_robIndex, State.retireOne_rob]
    rcases Nat.lt_or_eq_of_le (Nat.succ_le_of_lt hk) with hlt | hlast
    · have hne : s.head ≠ s.robIndex (k + 1) := by
        rw [← State.robIndex_zero hsized.head]
        exact add_mod_ne hlt k.succ_pos
      rw [List.getElem?_set_ne hne, hvalid (k + 1) hlt]
      simp
    · have hwrap : s.robIndex (k + 1) = s.head := by
        rw [State.robIndex, ← Nat.succ_eq_add_one, hlast, Nat.add_mod_right, Nat.mod_eq_of_lt hsized.head]
      have hlt : s.head < s.rob.length := (List.getElem?_eq_some_iff.mp hx).1
      have hout : ¬ k < n := by omega
      rw [hwrap, List.getElem?_set_self hlt]
      simp [hout]
  · rw [State.programSeqs, State.retireOne_robSlots hsized.head hx (by omega)] at hseqs
    simpa [State.programSeqs] using hseqs

theorem Sized.retireOne {x : RobSlot} (h : Sized s) : Sized (s.retireOne x) :=
  { h with rob := (List.length_set ..).trans h.rob, head := robSucc_lt _ _ h.robSize_pos }

theorem Sized.stampedForRetire (h : Sized s) : Sized s.stampedForRetire := { h with rob := (List.length_map ..).trans h.rob }

/-- A retirement of a sound state finds an occupied head and keeps the state sound. -/
theorem ProgramOrder.retireOne {x : RobSlot} (h : ProgramOrder s) (hsized : Sized s) (hx : s.rob[s.head]? = some x)
    (hv : x.valid = true) : ProgramOrder (s.retireOne x) := by
  obtain ⟨n, hn⟩ := programOrder_iff.mp h
  obtain ⟨m, rfl⟩ : ∃ m, n = m + 1 := ⟨n - 1, by
    have := hn.occupied.pos_of_head hsized.rob hx hv
    omega⟩
  exact programOrder_iff.mpr ⟨m, hn.retireOne hsized hx⟩

/-- What the stamps and every retirement from a state with sizes and program order keep, Retire keeps (rules R175, R176). -/
theorem retire_induction {P : State → Prop} (hsized : Sized s) (hpo : ProgramOrder s) (hstamp : P s.stampedForRetire)
    (hone : ∀ (u : State) (x : RobSlot), Sized u → ProgramOrder u → P u → u.rob[u.head]? = some x → x.valid = true → x.ready = true →
      P (u.retireOne x)) : Sized s.retire ∧ ProgramOrder s.retire ∧ P s.retire :=
  State.retireLoop_induction (s := s.stampedForRetire) (P := fun u => Sized u ∧ ProgramOrder u ∧ P u)
    (fun u x ⟨hsz, ho, hp⟩ hx hv hr => ⟨hsz.retireOne, ho.retireOne hsz hx hv, hone u x hsz ho hp hx hv hr⟩)
    ⟨hsized.stampedForRetire, hpo.of_view s.stampedForRetire_orderView, hstamp⟩ s.cfg.width

theorem ProgramOrder.retire (h : ProgramOrder s) (hsized : Sized s) : ProgramOrder s.retire :=
  (retire_induction (P := fun _ => True) hsized h trivial fun _ _ _ _ _ _ _ _ => trivial).2.1

/-! Rename -/

/-- The slots from `head` on, as many as the ROB has, are all of its slots. -/
theorem State.robSlots_perm (hlen : s.rob.length = s.cfg.robSize) : (s.robSlots s.cfg.robSize).Perm s.rob := by
  have hindices : ((List.range s.cfg.robSize).map s.robIndex).Perm (List.range s.cfg.robSize) := by
    refine (List.perm_ext_iff_of_nodup ?_ List.nodup_range).mpr fun j => ?_
    · refine List.Nodup.map_on (fun a ha b hb => ?_) List.nodup_range
      exact State.robIndex_inj (List.mem_range.mp ha) (List.mem_range.mp hb)
    · simp only [List.mem_map, List.mem_range]
      constructor
      · rintro ⟨k, hk, rfl⟩
        exact Nat.mod_lt _ (by omega)
      · exact fun hj => State.exists_robIndex hj
  have hall : (List.range s.cfg.robSize).filterMap (fun j => s.rob[j]?) = s.rob := by
    refine List.ext_getElem? fun j => ?_
    obtain ⟨hlen', hget⟩ := getElem?_filterMap_range (f := fun j => s.rob[j]?) (n := s.cfg.robSize) fun k hk =>
      ⟨_, List.getElem?_eq_getElem (hlen.symm ▸ hk)⟩
    by_cases hj : j < s.cfg.robSize
    · exact hget j hj
    · rw [List.getElem?_eq_none (by omega), List.getElem?_eq_none (by omega)]
  have hperm := hindices.filterMap fun j => s.rob[j]?
  rw [hall, List.filterMap_map] at hperm
  exact hperm

theorem countP_range_not_lt (n m : Nat) : (List.range m).countP (fun k => !decide (k < n)) = m - n := by
  induction m with
  | zero => simp
  | succ m ih =>
    rw [List.range_succ, List.countP_append, ih]
    by_cases h : m < n <;> simp [h] <;> omega

/-- The free slots are those that are not occupied (rule R113). -/
theorem Occupied.robFree_eq {n : Nat} (h : Occupied s n) (hlen : s.rob.length = s.cfg.robSize) :
    s.robFree = s.cfg.robSize - n := by
  have hget := getElem?_filterMap_range (f := fun k => s.rob[s.robIndex k]?) (n := s.cfg.robSize) fun k hk => by
    obtain ⟨x, hx, -⟩ := h.slot hk
    exact ⟨x, hx⟩
  have hvalid : (s.robSlots s.cfg.robSize).map (·.valid) = (List.range s.cfg.robSize).map fun k => decide (k < n) := by
    refine List.ext_getElem? fun k => ?_
    rw [List.getElem?_map, List.getElem?_map]
    by_cases hk : k < s.cfg.robSize
    · rw [State.robSlots, hget.2 k hk, h.valid k hk, List.getElem?_range hk]
      rfl
    · rw [List.getElem?_eq_none (by rw [State.robSlots, hget.1]; omega), List.getElem?_eq_none (by simpa using hk)]
      rfl
  have hcount := congrArg (List.countP fun v => !v) hvalid
  rw [List.countP_map, List.countP_map] at hcount
  calc s.robFree = (s.robSlots s.cfg.robSize).countP fun x => !x.valid := ((State.robSlots_perm hlen).countP_eq _).symm
    _ = (List.range s.cfg.robSize).countP fun k => !decide (k < n) := hcount
    _ = s.cfg.robSize - n := countP_range_not_lt n _

/-- Rename of the record `i` at the head of RN, with `b` behind it. -/
def State.renameHead (s : State) (i : InsRec) (b : List InsRec) : State := { s.renameOne i with rn := b }

/-- What one rename finds: sizes, program order with `n` occupied slots and at least one free, and the record `i` as the oldest of RN. -/
structure RenameReady (s : State) (n : Nat) (i : InsRec) (b : List InsRec) : Prop where
  sized : Sized s
  ordered : Ordered s n
  free : n < s.cfg.robSize
  rn : s.rn = i :: b
  room : s.rr.length < s.cfg.width

section
variable {n : Nat} {i : InsRec} {b : List InsRec}

/-- The slot at `tail` is free. -/
theorem RenameReady.tail_free (h : RenameReady s n i b) : ∃ x, s.rob[s.tail]? = some x ∧ x.valid = false := by
  obtain ⟨x, hx, hv⟩ := h.ordered.occupied.slot h.free
  rw [← h.ordered.occupied.tail] at hx
  exact ⟨x, hx, by simpa using hv⟩

theorem RenameReady.ne_tail (h : RenameReady s n i b) {j : Nat} {x : RobSlot} (hx : s.rob[j]? = some x) (hv : x.valid = true) :
    j ≠ s.tail := by
  rintro rfl
  obtain ⟨y, hy, hvy⟩ := h.tail_free
  obtain rfl := Option.some.inj (hx.symm.trans hy)
  simp [hv] at hvy

/-- The record is younger than every instruction in the ROB. -/
theorem RenameReady.younger (h : RenameReady s n i b) {j : Nat} {x : RobSlot} (hx : s.rob[j]? = some x) (hv : x.valid = true) :
    x.ins.seq < i.seq := by
  obtain ⟨k, hk, -, hseq⟩ := h.ordered.valid_seq h.sized.rob hx hv
  have hi := h.ordered.rn_seq (k := 0) (i := i) (by rw [h.rn]; rfl)
  omega

/-- The record is younger than every emitted one. -/
theorem RenameReady.younger_out (h : RenameReady s n i b) {o : TimingRecord} (ho : o ∈ s.out) : o.seq < i.seq := by
  obtain ⟨m, hm⟩ := List.mem_iff_getElem?.mp ho
  obtain ⟨hlt, -⟩ := List.getElem?_eq_some_iff.mp hm
  have hi := h.ordered.rn_seq (k := 0) (i := i) (by rw [h.rn]; rfl)
  have := h.ordered.out_seq hm
  omega

theorem RenameReady.rob_get (h : RenameReady s n i b) (j : Nat) :
    (s.renameHead i b).rob[j]? =
      if j = s.tail then some { valid := true, ready := false, ins := i, dstArf := i.dst } else s.rob[j]? := by
  by_cases hj : j = s.tail
  · subst hj
    rw [if_pos rfl]
    exact List.getElem?_set_self (by rw [h.sized.rob]; exact h.sized.tail)
  · rw [if_neg hj]
    exact State.renameOne_rob_get_of_ne hj i

theorem RenameReady.sized_next (h : RenameReady s n i b) : Sized (s.renameHead i b) := by
  have hrn : s.rn.length ≤ s.cfg.width := h.sized.rn
  rw [h.rn, List.length_cons] at hrn
  refine { h.sized with rob := (List.length_set ..).trans h.sized.rob, tail := robSucc_lt _ _ h.sized.robSize_pos, rn := ?_, rr := ?_ }
  · exact Nat.le_of_succ_le hrn
  · have hroom := h.room
    show (s.rr ++ [_]).length ≤ s.cfg.width
    rw [List.length_append, List.length_singleton]
    omega

/-- The renamed record is the youngest in the ROB (rules R132, R135). -/
theorem RenameReady.ordered_next (h : RenameReady s n i b) : Ordered (s.renameHead i b) (n + 1) := by
  obtain ⟨hle, htail, hvalid⟩ := h.ordered.occupied
  have hindex (k : Nat) : (s.renameHead i b).robIndex k = s.robIndex k := rfl
  have hne {k : Nat} (hk : k < s.cfg.robSize) (hkn : k ≠ n) : s.robIndex k ≠ s.tail := by
    rw [htail]
    exact fun e => hkn (State.robIndex_inj hk h.free e)
  have hslots : (s.renameHead i b).robSlots (n + 1) =
      s.robSlots n ++ [{ valid := true, ready := false, ins := i, dstArf := i.dst }] := by
    simp only [State.robSlots, List.range_succ, List.filterMap_append, List.filterMap_cons, List.filterMap_nil, hindex, h.rob_get,
      htail, if_true]
    refine congrArg (· ++ _) (List.filterMap_congr fun k hk => ?_)
    have hk' : k < n := List.mem_range.mp hk
    rw [← htail, if_neg (hne (by omega) (by omega))]
  refine ⟨⟨h.free, ?_, fun k hk => ?_⟩, ?_⟩
  · show (s.tail + 1) % s.cfg.robSize = (s.head + (n + 1)) % s.cfg.robSize
    rw [htail, State.robIndex, Nat.mod_add_mod, Nat.add_assoc]
  · rw [hindex, h.rob_get]
    by_cases hkn : k = n
    · subst hkn
      rw [if_pos htail.symm]
      simp
    · rw [if_neg (hne hk hkn), hvalid k hk]
      refine congrArg some (decide_eq_decide.mpr ?_)
      omega
  · have hseqs := h.ordered.seqs
    rw [State.programSeqs, h.rn] at hseqs
    rw [State.programSeqs, hslots]
    simpa [State.renameHead] using hseqs

end

theorem renameLoop_induction {P : State → Prop}
    (hone : ∀ (u : State) (n : Nat) (i : InsRec) (b : List InsRec), RenameReady u n i b → P u → P (u.renameHead i b))
    {n : Nat} {b : List InsRec} (hsized : Sized { s with rn := b }) (hn : Ordered { s with rn := b } n)
    (hroom : n + (s.cfg.width - s.rr.length) ≤ s.cfg.robSize) (h : P { s with rn := b }) :
    Sized (s.renameLoop b) ∧ ProgramOrder (s.renameLoop b) ∧ P (s.renameLoop b) := by
  induction b generalizing s n with
  | nil => exact ⟨hsized, programOrder_iff.mpr ⟨n, hn⟩, h⟩
  | cons i b ih =>
    simp only [State.renameLoop]
    split
    next hrr =>
      have hlt := (s.room_iff s.rr).mp hrr
      have hready : RenameReady { s with rn := i :: b } n i b := ⟨hsized, hn, by show n < s.cfg.robSize; omega, rfl, hlt⟩
      have hnext := ih (s := s.renameOne i) (n := n + 1) hready.sized_next hready.ordered_next (by
        rw [State.renameOne_cfg, State.renameOne_rr, List.length_append, List.length_singleton]
        omega) (hone { s with rn := i :: b } n i b hready h)
      exact hnext
    next => exact ⟨hsized, programOrder_iff.mpr ⟨n, hn⟩, h⟩

theorem State.stampedRn_orderView (s : State) : { s with rn := stampAll s.rn .rn s.cycle : State }.orderView = s.orderView := by
  simp only [State.orderView, map_seq_stampAll]

/-- What the stamps and every rename from a state with sizes, program order and a free slot keep, Rename keeps (rules R130, R131). -/
theorem rename_induction {P : State → Prop} (hsized : Sized s) (hpo : ProgramOrder s)
    (hstamp : P { s with rn := stampAll s.rn .rn s.cycle })
    (hone : ∀ (u : State) (n : Nat) (i : InsRec) (b : List InsRec), RenameReady u n i b → P u → P (u.renameHead i b)) :
    Sized s.rename ∧ ProgramOrder s.rename ∧ P s.rename := by
  have hsized' : Sized { s with rn := stampAll s.rn .rn s.cycle } := { hsized with rn := (stampAll_length ..).le.trans hsized.rn }
  obtain ⟨n, hn⟩ := programOrder_iff.mp hpo
  have hn' := hn.of_view s.stampedRn_orderView
  by_cases hfree : s.robFree < s.cfg.width
  · rw [State.rename_of_full hfree]
    exact ⟨hsized', programOrder_iff.mpr ⟨n, hn'⟩, hstamp⟩
  · have hcount := hn.occupied.robFree_eq hsized.rob
    have hle := hn.occupied.le
    have hopen : s.robAdmits = true := decide_eq_true (by omega)
    have hrename : s.rename = s.renameLoop (stampAll s.rn .rn s.cycle) := by simp [State.rename, hopen]
    rw [hrename]
    exact renameLoop_induction hone hsized' hn' (by omega) hstamp

theorem ProgramOrder.rename (h : ProgramOrder s) (hsized : Sized s) : ProgramOrder s.rename :=
  (rename_induction (P := fun _ => True) hsized h trivial fun _ _ _ _ _ _ => trivial).2.1

/-! Fetch, and the step -/

theorem ProgramOrder.fetch {t : State} (h : ProgramOrder s) (hfetch : fetch s = .next t) : ProgramOrder t := by
  cases hlatch : s.traceDone with
  | true =>
    rw [fetch_of_traceDone hlatch] at hfetch
    exact Host.Outcome.next.inj hfetch ▸ h
  | false =>
    obtain ⟨l, lines, rest, htakes⟩ := fetch_takes hlatch hfetch
    obtain ⟨n, ⟨⟨hle, htail, hvalid⟩, hseqs⟩⟩ := programOrder_iff.mp h
    rw [htakes.result]
    refine programOrder_iff.mpr ⟨n, ⟨⟨hle, htail, hvalid⟩, ?_⟩⟩
    have hnew : (l.zipIdx.map fun p => InsRec.create p.1.op p.1.pc p.1.dst p.1.src1 p.1.src2 (s.seqNext + p.2) s.cycle).map (·.seq) =
        (List.range l.length).map (s.seqNext + ·) := by
      rw [List.map_map, List.range_eq_range', ← List.zipIdx_map_snd, List.map_map]
      rfl
    show s.out.map (·.seq) ++ (s.robSlots n).map (·.ins.seq) ++ s.rn.map (·.seq) ++ (s.de ++ _).map (·.seq) = _
    rw [List.map_append, hnew, ← List.append_assoc, List.range_add]
    exact congrArg (· ++ _) hseqs

theorem ProgramOrder.stages (h : ProgramOrder s) (hsized : Sized s) : ProgramOrder s.stages :=
  ((h.retire hsized).writeback.execute.issue.dispatch.regRead.rename
    hsized.retire.writeback.execute.issue.dispatch.regRead).decode

theorem ProgramOrder.step {t : State} (h : ProgramOrder s) (hsized : Sized s) (hstep : step s = .next t) : ProgramOrder t :=
  step_keeps_of (fun _ => h.stages hsized) ProgramOrder.fetch ProgramOrder.advance h hstep

end

/-- Settles O44: most stages leave what program order reads; Retire, Rename and Fetch move the boundary between two places that
follow one another. -/
theorem programOrderIsKept : Obligations.ProgramOrderIsKept := fun _ _ hsized h hstep => h.step hsized hstep

theorem programOrder_start (cfg : Config) (trace : List TraceLine) : ProgramOrder (State.start cfg trace) := by
  refine programOrder_iff.mpr ⟨0, ⟨⟨Nat.zero_le _, ?_, fun k hk => ?_⟩, rfl⟩⟩
  · exact (Nat.zero_mod _).symm
  · have hlt : (State.start cfg trace).robIndex k < cfg.robSize := Nat.mod_lt _ (Nat.zero_lt_of_lt hk)
    show ((List.replicate cfg.robSize RobSlot.free)[_]?).map _ = _
    rw [List.getElem?_replicate, if_pos hlt]
    rfl

end Sys2Proof.Machine
end

section
/-!
PROOFS. The Rename Map Table (rules R33, R34, R134, R177, R246): what of the ROB its soundness reads, the retirements and renames that
change it, and O45.
-/

namespace Sys2Proof.Machine

/-- What the soundness of the RMT reads of a ROB slot. -/
def RobSlot.claim (x : RobSlot) : Bool × RegField × Nat := (x.valid, x.dstArf, x.ins.seq)

@[simp] theorem RobSlot.stampRetire_claim (x : RobSlot) (c : Nat) : (x.stampRetire c).claim = x.claim := by
  simp [RobSlot.claim]

theorem map_claim_writebackRob (rob : List RobSlot) (i : InsRec) :
    (writebackRob rob i).map RobSlot.claim = rob.map RobSlot.claim := by
  induction rob with
  | nil => rfl
  | cons x rob ih =>
    simp only [writebackRob]
    split
    next hholds => simp [RobSlot.claim, ((x.holds_iff _).mp hholds).2]
    next => rw [List.map_cons, List.map_cons, ih]

theorem map_claim_writebackAll (c : Nat) (b : List InsRec) (rob : List RobSlot) :
    (writebackAll c b rob).map RobSlot.claim = rob.map RobSlot.claim := by
  induction b generalizing rob with
  | nil => rfl
  | cons i b ih => rw [writebackAll, ih, map_claim_writebackRob]

/-- Slots at one index of two ROBs with the same claims make the same claim. -/
theorem exists_of_map_claim_eq {rob rob' : List RobSlot} (h : rob'.map RobSlot.claim = rob.map RobSlot.claim) {j : Nat}
    {x : RobSlot} (hx : rob[j]? = some x) : ∃ x', rob'[j]? = some x' ∧ x'.claim = x.claim := by
  have hj : (rob'[j]?).map RobSlot.claim = some x.claim := by
    rw [← List.getElem?_map, h, List.getElem?_map, hx]
    rfl
  exact Option.map_eq_some_iff.mp hj

theorem exists_mem_of_map_claim_eq {rob rob' : List RobSlot} (h : rob'.map RobSlot.claim = rob.map RobSlot.claim) {x : RobSlot}
    (hx : x ∈ rob) : ∃ x' ∈ rob', x'.claim = x.claim := by
  obtain ⟨j, hj⟩ := List.mem_iff_getElem?.mp hx
  obtain ⟨x', hx', hclaim⟩ := exists_of_map_claim_eq h hj
  exact ⟨x', List.mem_of_getElem? hx', hclaim⟩

theorem RobSlot.claim_eq_iff {x y : RobSlot} :
    x.claim = y.claim ↔ x.valid = y.valid ∧ x.dstArf = y.dstArf ∧ x.ins.seq = y.ins.seq := by
  simp [RobSlot.claim]

theorem RmtSound.of_claims {s t : State} (h : RmtSound s) (hrmt : t.rmt = s.rmt)
    (hrob : t.rob.map RobSlot.claim = s.rob.map RobSlot.claim) : RmtSound t where
  names r hr := by
    rw [hrmt] at hr ⊢
    obtain ⟨x, hx, hv, hdst, hyoung⟩ := h.names r hr
    obtain ⟨x', hx', hclaim⟩ := exists_of_map_claim_eq hrob hx
    obtain ⟨hv', hdst', hseq'⟩ := RobSlot.claim_eq_iff.mp hclaim
    refine ⟨x', hx', hv'.trans hv, hdst'.trans hdst, fun y' hy' hvy hdy => ?_⟩
    obtain ⟨y, hy, hclaimy⟩ := exists_mem_of_map_claim_eq hrob.symm hy'
    obtain ⟨hvy', hdy', hsy'⟩ := RobSlot.claim_eq_iff.mp hclaimy
    rw [hseq', ← hsy']
    exact hyoung y hy (hvy'.trans hvy) (hdy'.trans hdy)
  mapped r y' hy' hvy hdy := by
    rw [hrmt]
    obtain ⟨y, hy, hclaimy⟩ := exists_mem_of_map_claim_eq hrob.symm hy'
    obtain ⟨hvy', hdy', -⟩ := RobSlot.claim_eq_iff.mp hclaimy
    exact h.mapped r y hy (hvy'.trans hvy) (hdy'.trans hdy)

section
variable {s : State}

theorem RmtSound.writeback (h : RmtSound s) : RmtSound s.writeback := h.of_claims rfl (map_claim_writebackAll ..)

/-- Retirement of the oldest instruction: an entry that names its slot is cleared, and the slot named by any other stays (rule
R177). -/
theorem RmtSound.retireOne {x : RobSlot} (h : RmtSound s) (hsized : Sized s) (hpo : ProgramOrder s)
    (hx : s.rob[s.head]? = some x) (hv : x.valid = true) : RmtSound (s.retireOne x) := by
  obtain ⟨n, hn⟩ := programOrder_iff.mp hpo
  have hlt : s.head < s.rob.length := (List.getElem?_eq_some_iff.mp hx).1
  have hget (j : Nat) : (s.retireOne x).rob[j]? = if s.head = j then some { x with valid := false } else s.rob[j]? := by
    rw [State.retireOne_rob, List.getElem?_set, if_pos hlt]
  have hkept {y : RobSlot} (hy : y ∈ (s.retireOne x).rob) (hvy : y.valid = true) : ∃ j, j ≠ s.head ∧ s.rob[j]? = some y := by
    obtain ⟨j, hj⟩ := List.mem_iff_getElem?.mp hy
    rw [hget] at hj
    split at hj
    next =>
      cases hj
      cases hvy
    next hne => exact ⟨j, Ne.symm hne, hj⟩
  constructor
  case names =>
    intro r hr
    rw [State.retireOne_rmt, clearDest_get] at hr ⊢
    split at hr
    next => cases hr
    next hclear =>
      rw [if_neg hclear]
      obtain ⟨y, hy, hvy, hdst, hyoung⟩ := h.names r hr
      have hne : s.head ≠ s.rmt[r].robTag := fun e => by
        rw [← e, hx] at hy
        obtain rfl := Option.some.inj hy
        exact hclear ⟨hdst, hr, e.symm⟩
      refine ⟨y, by rw [hget, if_neg hne]; exact hy, hvy, hdst, fun z hz hvz hdz => ?_⟩
      obtain ⟨j, -, hj⟩ := hkept hz hvz
      exact hyoung z (List.mem_of_getElem? hj) hvz hdz
  case mapped =>
    intro r y hy hvy hdy
    obtain ⟨j, hne, hj⟩ := hkept hy hvy
    have hr := h.mapped r y (List.mem_of_getElem? hj) hvy hdy
    rw [State.retireOne_rmt, clearDest_get, if_neg]
    · exact hr
    · rintro ⟨-, -, htag⟩
      obtain ⟨z, hz, -, -, hyoung⟩ := h.names r hr
      rw [htag, hx] at hz
      obtain rfl := Option.some.inj hz
      have hle := hyoung y (List.mem_of_getElem? hj) hvy hdy
      have hgt := hn.head_lt hsized.rob hsized.head hx hv hj hvy hne
      omega

theorem RmtSound.retire (h : RmtSound s) (hsized : Sized s) (hpo : ProgramOrder s) : RmtSound s.retire :=
  (retire_induction hsized hpo (h.of_claims rfl (by simp [State.stampedForRetire, Function.comp_def]))
    fun _ _ hsz ho h hx hv _ => h.retireOne hsz ho hx hv).2.2

/-- Rename of one record: its slot is the youngest, and the RMT names it for its destination (rule R134). -/
theorem RmtSound.renameHead {n : Nat} {i : InsRec} {b : List InsRec} (h : RmtSound s) (hready : RenameReady s n i b) :
    RmtSound (s.renameHead i b) := by
  have hrmt (r : ArfIndex) : (s.renameHead i b).rmt[r] = if i.dst = some r then { valid := true, robTag := s.tail } else s.rmt[r] :=
    s.renameOne_rmt_get i r
  have hmem {y : RobSlot} (hy : y ∈ (s.renameHead i b).rob) :
      y = { valid := true, ready := false, ins := i, dstArf := i.dst } ∨ y ∈ s.rob := by
    obtain ⟨j, hj⟩ := List.mem_iff_getElem?.mp hy
    rw [hready.rob_get] at hj
    split at hj
    next => exact .inl (Option.some.inj hj).symm
    next => exact .inr (List.mem_of_getElem? hj)
  constructor
  case names =>
    intro r hr
    rw [hrmt] at hr ⊢
    split at hr
    next hdst =>
      rw [if_pos hdst]
      refine ⟨_, by rw [hready.rob_get, if_pos rfl], rfl, hdst, fun y hy hvy hdy => ?_⟩
      rcases hmem hy with rfl | hold
      · exact Nat.le_refl _
      · obtain ⟨j, hj⟩ := List.mem_iff_getElem?.mp hold
        exact (hready.younger hj hvy).le
    next hdst =>
      rw [if_neg hdst]
      obtain ⟨x, hx, hv, hd, hyoung⟩ := h.names r hr
      refine ⟨x, by rw [hready.rob_get, if_neg (hready.ne_tail hx hv)]; exact hx, hv, hd, fun y hy hvy hdy => ?_⟩
      rcases hmem hy with rfl | hold
      · exact absurd hdy hdst
      · exact hyoung y hold hvy hdy
  case mapped =>
    intro r y hy hvy hdy
    rw [hrmt]
    split
    next => rfl
    next hdst =>
      rcases hmem hy with rfl | hold
      · exact absurd hdy hdst
      · exact h.mapped r y hold hvy hdy

theorem RmtSound.rename (h : RmtSound s) (hsized : Sized s) (hpo : ProgramOrder s) : RmtSound s.rename :=
  (rename_induction hsized hpo (h.of_claims rfl rfl) fun _ _ _ _ hready h => h.renameHead hready).2.2

theorem RmtSound.stages (h : RmtSound s) (hsized : Sized s) (hpo : ProgramOrder s) : RmtSound s.stages := by
  have hsz := hsized.retire.writeback.execute.issue.dispatch.regRead
  have hord := (hpo.retire hsized).writeback.execute.issue.dispatch.regRead
  have hread : RmtSound s.retire.writeback.execute.issue.dispatch.regRead :=
    (h.retire hsized hpo).writeback.of_claims (by simp) (by simp)
  rw [State.stages]
  exact (hread.rename hsz hord).of_claims (State.decode_rmt _) (congrArg (List.map RobSlot.claim) (State.decode_rob _))

theorem RmtSound.fetch {t : State} (h : RmtSound s) (hfetch : fetch s = .next t) : RmtSound t := by
  have hframe := fetch_frame hfetch
  exact h.of_claims (by rw [hframe]) (by rw [hframe])

theorem RmtSound.step {t : State} (h : RmtSound s) (hsized : Sized s) (hpo : ProgramOrder s) (hstep : step s = .next t) :
    RmtSound t :=
  step_keeps_of (fun _ => h.stages hsized hpo) RmtSound.fetch (fun h => h.of_claims rfl rfl) h hstep

end

/-- Settles O45: a retirement frees the oldest slot and clears what names it, a rename adds the youngest and names it. -/
theorem rmtSoundnessIsKept : Obligations.RmtSoundnessIsKept := fun _ _ hsized hpo h hstep => h.step hsized hpo hstep

theorem rmtSound_start (cfg : Config) (trace : List TraceLine) : RmtSound (State.start cfg trace) where
  names r hr := by
    simp [State.start, RmtEntry.free] at hr
  mapped r y hy hv := by
    obtain rfl := List.eq_of_mem_replicate hy
    cases hv

end Sys2Proof.Machine
end

section
/-!
PROOFS. The records in flight as a multiset (rules R139, R143, R153, R159): Execute, Issue, Dispatch and Register-Read move records
and change in them only stamps, durations, source tags and the `wbDone` flag.
-/

namespace Sys2Proof.Machine

/-! The occupied slots of the IQ -/

/-- The records that stand in the IQ. -/
def queued (q : List IqSlot) : List InsRec := (q.filter (·.valid)).map (·.ins)

theorem State.unfinished_eq (s : State) : s.unfinished = s.rr ++ s.di ++ queued s.iq ++ s.exl.map (·.ins) := rfl

theorem set_eq_of_getElem? {α : Type} {l : List α} {k : Nat} {x : α} (h : l[k]? = some x) (y : α) :
    l = l.take k ++ x :: l.drop (k + 1) ∧ l.set k y = l.take k ++ y :: l.drop (k + 1) := by
  obtain ⟨hk, rfl⟩ := List.getElem?_eq_some_iff.mp h
  exact ⟨by rw [List.getElem_cons_drop, List.take_append_drop], List.set_eq_take_append_cons_drop .. |>.trans (if_pos hk)⟩

/-- A freed slot takes its record out of the IQ (rule R153). -/
theorem queued_set_freed {q : List IqSlot} {k : Nat} {x : IqSlot} (hx : q[k]? = some x) (hv : x.valid = true) :
    (queued q).Perm (x.ins :: queued (q.set k x.freed)) := by
  obtain ⟨hq, hset⟩ := set_eq_of_getElem? hx x.freed
  rw [hset]
  conv_lhs => rw [hq]
  have hfree : x.freed.valid = false := rfl
  simp only [queued, List.filter_append, List.filter_cons, hv, hfree, if_true, List.map_append, List.map_cons]
  exact List.perm_middle

/-- A filled slot puts its record into the IQ (rule R144). -/
theorem queued_set_filled {q : List IqSlot} {k : Nat} {x : IqSlot} (hx : q[k]? = some x) (hv : x.valid = false) (i : InsRec) :
    (queued (q.set k { valid := true, ins := i })).Perm (i :: queued q) := by
  obtain ⟨hq, hset⟩ := set_eq_of_getElem? hx { valid := true, ins := i }
  rw [hset]
  conv_rhs => rw [hq]
  simp only [queued, List.filter_append, List.filter_cons, hv, if_true, List.map_append, List.map_cons]
  exact List.perm_middle

/-- An operation on the slots that keeps the valid bits, seen in the records. -/
theorem map_queued {α : Type} {g : InsRec → α} {f : IqSlot → IqSlot} (hvalid : ∀ x, (f x).valid = x.valid)
    (hins : ∀ x : IqSlot, x.valid = true → g (f x).ins = g x.ins) (q : List IqSlot) : (queued (q.map f)).map g = (queued q).map g := by
  induction q with
  | nil => rfl
  | cons x q ih =>
    simp only [queued] at ih
    cases hv : x.valid with
    | true => simp [queued, hvalid, hv, hins x hv, ih]
    | false => simp [queued, hvalid, hv, ih]

/-! The moves -/

section
variable {α : Type} {g : InsRec → α}

/-- Issue moves records from the IQ to EXL. -/
theorem Selections.perm {c n : Nat} {q : List IqSlot} {slots : List Nat} {l : List ExlEntry} (h : Selections c n q slots l)
    (hleave : ∀ i : InsRec, g (i.leave .is c) = g i) :
    ((queued (freeAll q slots)).map g ++ l.map fun e => g e.ins).Perm ((queued q).map g) := by
  induction h with
  | limit => simp
  | idle => simp
  | @take n k q x slots l hx _ ih =>
    have hv := (x.selectable_iff.mp hx.selectable).1
    rw [freeAll_set_freed hx.get] at ih
    have hissued : g (x.issued c).ins = g x.ins := hleave x.ins
    rw [List.map_cons, hissued]
    exact (List.perm_middle.trans (ih.cons _)).trans ((queued_set_freed hx.get hv).map g).symm

theorem State.issue_unfinished_perm (hstamp : ∀ (i : InsRec) (c : Nat), g (i.stamp .is c) = g i)
    (hleave : ∀ (i : InsRec) (c : Nat), g (i.leave .is c) = g i) (s : State) :
    (s.issue.unfinished.map g).Perm (s.unfinished.map g) := by
  unfold State.issue
  split
  · exact .refl _
  · obtain ⟨slots, l, hsel, hloop⟩ :=
      State.issueLoop_selections { s with iq := s.iq.map fun (x : IqSlot) => x.stampIssue s.cycle } s.cfg.width
    have hperm := hsel.perm (g := g) fun i => hleave i s.cycle
    rw [map_queued (fun x => x.stampIssue_valid s.cycle) fun x hv => by rw [x.stampIssue_ins, if_pos hv, hstamp]] at hperm
    rw [hloop]
    simp only [State.unfinished_eq, List.map_append, List.map_map, List.append_assoc]
    refine (List.Perm.append_left _ (List.Perm.append_left _ ?_))
    refine (List.perm_append_comm_assoc _ _ _).trans ?_
    exact (List.Perm.append_left _ hperm).trans List.perm_append_comm

/-- Dispatch moves records from DI to the IQ. -/
theorem State.dispatchLoop_perm (s : State) (hplace : ∀ i : InsRec, g (i.dispatched s.rob s.cycle) = g i) (b : List InsRec) :
    ((s.dispatchLoop b).di.map g ++ (queued (s.dispatchLoop b).iq).map g).Perm (b.map g ++ (queued s.iq).map g) := by
  induction b generalizing s with
  | nil => exact .refl _
  | cons i b ih =>
    cases hf : freeSlot s.iq with
    | none => simp [State.dispatchLoop, hf]
    | some k =>
      obtain ⟨x, hx, hv⟩ := (isLeastFree_of_freeSlot hf).free
      have hset := (queued_set_filled hx hv (i.dispatched s.rob s.cycle)).map g
      rw [List.map_cons, hplace] at hset
      have hrest := ih { s with iq := s.iq.set k { valid := true, ins := i.dispatched s.rob s.cycle } } hplace
      simp only [State.dispatchLoop, hf]
      exact hrest.trans ((List.Perm.append_left _ hset).trans List.perm_middle)

theorem State.dispatch_unfinished_perm (hstamp : ∀ (i : InsRec) (c : Nat), g (i.stamp .di c) = g i) (s : State)
    (hplace : ∀ i : InsRec, g (i.dispatched s.rob s.cycle) = g i) : (s.dispatch.unfinished.map g).Perm (s.unfinished.map g) := by
  have hstamped : (stampAll s.di .di s.cycle).map g = s.di.map g := by simp [stampAll, Function.comp_def, hstamp]
  have hperm : (s.dispatch.di.map g ++ (queued s.dispatch.iq).map g).Perm (s.di.map g ++ (queued s.iq).map g) := by
    unfold State.dispatch
    split
    · exact hstamped ▸ s.dispatchLoop_perm hplace _
    · exact hstamped ▸ .refl _
  simp only [State.unfinished_eq, List.map_append, State.dispatch_rr, State.dispatch_exl, List.append_assoc]
  refine List.Perm.append_left _ ?_
  rw [← List.append_assoc, ← List.append_assoc]
  exact hperm.append_right _

/-- Register-Read moves records from RR to DI. -/
theorem State.regRead_unfinished_perm (hstamp : ∀ (i : InsRec) (c : Nat), g (i.stamp .rr c) = g i) (s : State)
    (hread : ∀ i : InsRec, g (i.regRead s.rob s.cycle) = g i) : (s.regRead.unfinished.map g).Perm (s.unfinished.map g) := by
  have hstamped : (stampAll s.rr .rr s.cycle).map g = s.rr.map g := by simp [stampAll, Function.comp_def, hstamp]
  have hmoved : (((stampAll s.rr .rr s.cycle).take (s.cfg.width - s.di.length)).map fun i => i.regRead s.rob s.cycle).map g =
      ((stampAll s.rr .rr s.cycle).take (s.cfg.width - s.di.length)).map g := by simp [Function.comp_def, hread]
  rw [s.regRead_eq]
  simp only [State.unfinished_eq, List.map_append, hmoved]
  refine (List.Perm.append_right _ (List.Perm.append_right _ ?_))
  rw [← hstamped]
  conv_rhs => rw [← List.take_append_drop (s.cfg.width - s.di.length) (stampAll s.rr .rr s.cycle), List.map_append]
  refine List.perm_append_comm.trans ?_
  rw [List.append_assoc]
  exact List.perm_append_comm

/-- Execute moves records from EXL to WB, and wakes the others. -/
theorem State.execute_travelling_perm (hstamp : ∀ (i : InsRec) (c : Nat), g (i.stamp .ex c) = g i)
    (hfinish : ∀ (e : ExlEntry) (c : Nat), g (e.finish c) = g e.ins)
    (hwake : ∀ (i : InsRec) (ts : List (Option Nat)), g (i.wakeAll ts) = g i) (s : State) :
    (s.execute.travelling.map g).Perm (s.travelling.map g) := by
  have hperm := State.execute_perm hfinish hstamp s
  rw [s.execute_frame]
  simp only [State.travelling, State.unfinished_eq, List.map_append, List.map_map, List.append_assoc]
  rw [map_queued (fun x => x.wakeAll_valid _) fun x hv => by rw [IqSlot.wakeAll_of_valid hv, hwake]]
  simp only [Function.comp_def, hwake]
  exact List.Perm.append_left _ (List.Perm.append_left _ (List.Perm.append_left _ hperm))

end

/-! What stays of a record -/

/-- The fields of a record that nothing changes after Rename (rules R20, R22): its identity and its own slot. -/
def InsRec.core (i : InsRec) : InsRec := { i with times := .unset, src1Tag := none, src2Tag := none, wbDone := false }

theorem InsRec.core_eq_iff {i j : InsRec} : i.core = j.core ↔ SameIdentity i j ∧ i.dstTag = j.dstTag := by
  constructor
  · intro h
    simp only [InsRec.core, InsRec.mk.injEq] at h
    obtain ⟨hpc, hop, hdst, hsrc1, hsrc2, hseq, -, htag, -⟩ := h
    exact ⟨⟨hpc, hop, hdst, hsrc1, hsrc2, hseq⟩, htag⟩
  · rintro ⟨⟨hpc, hop, hdst, hsrc1, hsrc2, hseq⟩, htag⟩
    simp only [InsRec.core, hpc, hop, hdst, hsrc1, hsrc2, hseq, htag]

section
variable {s : State}

theorem State.execute_cores (s : State) : (s.execute.travelling.map InsRec.core).Perm (s.travelling.map InsRec.core) :=
  State.execute_travelling_perm (fun _ _ => rfl) (fun _ _ => rfl) (fun _ _ => rfl) s

theorem State.issue_cores (s : State) : (s.issue.unfinished.map InsRec.core).Perm (s.unfinished.map InsRec.core) :=
  State.issue_unfinished_perm (fun _ _ => rfl) (fun _ _ => rfl) s

theorem State.dispatch_cores (s : State) : (s.dispatch.unfinished.map InsRec.core).Perm (s.unfinished.map InsRec.core) :=
  State.dispatch_unfinished_perm (fun _ _ => rfl) s fun _ => rfl

theorem State.regRead_cores (s : State) : (s.regRead.unfinished.map InsRec.core).Perm (s.unfinished.map InsRec.core) :=
  State.regRead_unfinished_perm (fun _ _ => rfl) s fun _ => rfl

theorem travelling_cores_of_unfinished {t : State} (h : (t.unfinished.map InsRec.core).Perm (s.unfinished.map InsRec.core))
    (hwb : t.wb = s.wb) : (t.travelling.map InsRec.core).Perm (s.travelling.map InsRec.core) := by
  rw [State.travelling, State.travelling, hwb, List.map_append, List.map_append]
  exact h.append_right _

end

theorem exists_of_cores {l m : List InsRec} (h : (l.map InsRec.core).Perm (m.map InsRec.core)) {i : InsRec} (hi : i ∈ l) :
    ∃ j ∈ m, i.core = j.core := by
  have hmem : i.core ∈ m.map InsRec.core := h.mem_iff.mp (List.mem_map_of_mem hi)
  obtain ⟨j, hj, hcore⟩ := List.mem_map.mp hmem
  exact ⟨j, hj, hcore.symm⟩

end Sys2Proof.Machine
end

section
/-!
PROOFS. The records in flight and their slots (rules R132, R171, R172): each stage operation keeps them the same instructions, and
O58.
-/

namespace Sys2Proof.Machine

/-- A record Rename has not reached has no tag (rules R22, R40). -/
def NoTags (b : List InsRec) : Prop := ∀ i ∈ b, i.src1Tag = none ∧ i.src2Tag = none ∧ i.dstTag = none

theorem NoTags.of_sources {b b' : List InsRec} (h : NoTags b)
    (hsource : ∀ i ∈ b', ∃ j ∈ b, i.src1Tag = j.src1Tag ∧ i.src2Tag = j.src2Tag ∧ i.dstTag = j.dstTag) : NoTags b' := by
  intro i hi
  obtain ⟨j, hj, h1, h2, h3⟩ := hsource i hi
  rw [h1, h2, h3]
  exact h j hj

theorem OwnsSlot.of_core {s : State} {i j : InsRec} (h : OwnsSlot s i) (hcore : j.core = i.core) : OwnsSlot s j := by
  obtain ⟨⟨hpc, hop, hdst, hsrc1, hsrc2, hseq⟩, htag⟩ := InsRec.core_eq_iff.mp hcore
  obtain ⟨k, x, hk, hx, hv, hr, ⟨hpc', hop', hdst', hsrc1', hsrc2', hseq'⟩, honly⟩ := h
  exact ⟨k, x, htag.trans hk, hx, hv, hr, ⟨hpc'.trans hpc.symm, hop'.trans hop.symm, hdst'.trans hdst.symm,
    hsrc1'.trans hsrc1.symm, hsrc2'.trans hsrc2.symm, hseq'.trans hseq.symm⟩, fun m y hy hvy hs => honly m y hy hvy (hs.trans hseq)⟩

/-- A slot stays owned where it stays and no new holder of its number appears. -/
theorem OwnsSlot.of_rob {s t : State} {i : InsRec} (h : OwnsSlot s i)
    (hstay : ∀ (k : Nat) (x : RobSlot), i.dstTag = some k → x.ins.seq = i.seq → s.rob[k]? = some x → x.valid = true → x.ready = false →
      t.rob[k]? = some x)
    (hback : ∀ (j : Nat) (y : RobSlot), t.rob[j]? = some y → y.valid = true → y.ins.seq = i.seq →
      ∃ y', s.rob[j]? = some y' ∧ y'.valid = true ∧ y'.ins.seq = i.seq) : OwnsSlot t i := by
  obtain ⟨k, x, hk, hx, hv, hr, hsame, honly⟩ := h
  refine ⟨k, x, hk, hstay k x hk hsame.seq hx hv hr, hv, hr, hsame, fun j y hy hvy hseq => ?_⟩
  obtain ⟨y', hy', hvy', hseq'⟩ := hback j y hy hvy hseq
  exact honly j y' hy' hvy' hseq'

section
variable {s : State}

/-- Records that only move, and an ROB that is left alone. -/
theorem InFlight.of_cores {t : State} (h : InFlight s) (hcores : (t.travelling.map InsRec.core).Perm (s.travelling.map InsRec.core))
    (hrob : t.rob = s.rob) (hfront : NoTags (t.rn ++ t.de)) : InFlight t where
  owns i hi := by
    obtain ⟨j, hj, hcore⟩ := exists_of_cores hcores hi
    refine (((h.owns j hj).of_core hcore)).of_rob (fun k x _ _ hx _ _ => hrob ▸ hx) fun m y hy hvy hs => ⟨y, hrob ▸ hy, hvy, hs⟩
  once := by
    have hseqs := (hcores.map (·.seq)).nodup_iff
    simp only [List.map_map] at hseqs
    exact hseqs.mpr h.once
  present k x hx hv hr := by
    obtain ⟨i, hi, htag⟩ := h.present k x (hrob ▸ hx) hv hr
    obtain ⟨j, hj, hcore⟩ := exists_of_cores hcores.symm hi
    exact ⟨j, hj, (InsRec.core_eq_iff.mp hcore).2.symm.trans htag⟩
  slots x hx := h.slots x (hrob ▸ hx)
  front := hfront

theorem InFlight.execute (h : InFlight s) : InFlight s.execute :=
  h.of_cores s.execute_cores s.execute_rob (by rw [s.execute_rn, s.execute_de]; exact h.front)

theorem InFlight.issue (h : InFlight s) : InFlight s.issue :=
  h.of_cores (travelling_cores_of_unfinished s.issue_cores s.issue_wb) s.issue_rob (by rw [s.issue_rn, s.issue_de]; exact h.front)

theorem InFlight.dispatch (h : InFlight s) : InFlight s.dispatch :=
  h.of_cores (travelling_cores_of_unfinished s.dispatch_cores s.dispatch_wb) s.dispatch_rob
    (by rw [s.dispatch_rn, s.dispatch_de]; exact h.front)

theorem InFlight.regRead (h : InFlight s) : InFlight s.regRead :=
  h.of_cores (travelling_cores_of_unfinished s.regRead_cores s.regRead_wb) s.regRead_rob
    (by rw [s.regRead_rn, s.regRead_de]; exact h.front)

theorem InFlight.advance (h : InFlight s) : InFlight s.advance := h.of_cores (.refl _) rfl h.front

theorem InFlight.decode (h : InFlight s) : InFlight s.decode := by
  refine h.of_cores (.refl _) s.decode_rob (NoTags.of_sources h.front fun i hi => ?_)
  rw [s.decode_eq] at hi
  simp only [List.mem_append] at hi ⊢
  rcases hi with (hi | hi) | hi
  · exact ⟨i, .inl hi, rfl, rfl, rfl⟩
  · obtain ⟨j, hj, rfl⟩ := List.mem_map.mp hi
    obtain ⟨m, hm, rfl⟩ := List.mem_map.mp (List.mem_of_mem_take hj)
    exact ⟨m, .inr hm, rfl, rfl, rfl⟩
  · obtain ⟨m, hm, rfl⟩ := List.mem_map.mp (List.mem_of_mem_drop hi)
    exact ⟨m, .inr hm, rfl, rfl, rfl⟩

theorem InFlight.fetch {t : State} (h : InFlight s) (hfetch : fetch s = .next t) : InFlight t := by
  cases hlatch : s.traceDone with
  | true =>
    rw [fetch_of_traceDone hlatch] at hfetch
    exact Host.Outcome.next.inj hfetch ▸ h
  | false =>
    obtain ⟨l, lines, rest, htakes⟩ := fetch_takes hlatch hfetch
    rw [htakes.result]
    refine h.of_cores (.refl _) rfl fun i hi => ?_
    simp only [List.mem_append, List.mem_map] at hi
    rcases hi with hi | hi | ⟨p, -, rfl⟩
    · exact h.front i (List.mem_append_left _ hi)
    · exact h.front i (List.mem_append_right _ hi)
    · exact ⟨rfl, rfl, rfl⟩

/-! Retire -/

/-- Slots that are not ready stay, and no slot becomes occupied. -/
theorem InFlight.of_waiting {t : State} (h : InFlight s) (htravelling : t.travelling = s.travelling)
    (hfront : t.rn ++ t.de = s.rn ++ s.de)
    (hwait : ∀ (k : Nat) (x : RobSlot), x.valid = true → x.ready = false → (t.rob[k]? = some x ↔ s.rob[k]? = some x))
    (hback : ∀ (j : Nat) (y : RobSlot), t.rob[j]? = some y → y.valid = true →
      ∃ y', s.rob[j]? = some y' ∧ y'.valid = true ∧ y'.dstArf = y.dstArf ∧ SameIdentity y'.ins y.ins) : InFlight t where
  owns i hi := (h.owns i (htravelling ▸ hi)).of_rob (fun k x _ _ hx hv hr => (hwait k x hv hr).mpr hx) fun j y hy hvy hs => by
    obtain ⟨y', hy', hvy', -, hsame⟩ := hback j y hy hvy
    exact ⟨y', hy', hvy', hsame.seq.trans hs⟩
  once := htravelling ▸ h.once
  present k x hx hv hr := htravelling ▸ h.present k x ((hwait k x hv hr).mp hx) hv hr
  slots y hy hv := by
    obtain ⟨j, hj⟩ := List.mem_iff_getElem?.mp hy
    obtain ⟨y', hy', hvy', hdst, hsame⟩ := hback j y hj hv
    rw [← hdst, h.slots y' (List.mem_of_getElem? hy') hvy', hsame.dst]
  front := hfront ▸ h.front

theorem InFlight.stampedForRetire (h : InFlight s) : InFlight s.stampedForRetire := by
  have hget (j : Nat) : s.stampedForRetire.rob[j]? = (s.rob[j]?).map fun x => x.stampRetire s.cycle := List.getElem?_map ..
  refine h.of_waiting rfl rfl (fun k x hv hr => ?_) fun j y hy hvy => ?_
  · rw [hget]
    constructor
    · intro hx
      obtain ⟨z, hz, rfl⟩ := Option.map_eq_some_iff.mp hx
      rw [z.stampRetire_valid] at hv
      rw [z.stampRetire_ready] at hr
      rwa [RobSlot.stampRetire_of_waiting (by simp [hr])]
    · intro hx
      rw [hx, Option.map_some, RobSlot.stampRetire_of_waiting (by simp [hr])]
  · rw [hget] at hy
    obtain ⟨z, hz, rfl⟩ := Option.map_eq_some_iff.mp hy
    refine ⟨z, hz, by rwa [z.stampRetire_valid] at hvy, (z.stampRetire_dstArf _).symm, ?_⟩
    unfold RobSlot.stampRetire
    split
    · exact ⟨rfl, rfl, rfl, rfl, rfl, rfl⟩
    · exact .refl _

theorem InFlight.retireOne {x : RobSlot} (h : InFlight s) (hx : s.rob[s.head]? = some x) (hready : x.ready = true) :
    InFlight (s.retireOne x) := by
  have hlt : s.head < s.rob.length := (List.getElem?_eq_some_iff.mp hx).1
  have hget (j : Nat) : (s.retireOne x).rob[j]? = if s.head = j then some { x with valid := false } else s.rob[j]? := by
    rw [State.retireOne_rob, List.getElem?_set, if_pos hlt]
  refine h.of_waiting rfl rfl (fun k z hv hr => ?_) fun j y hy hvy => ?_
  · rw [hget]
    split
    next hk =>
      subst hk
      rw [hx]
      constructor
      · intro e
        cases e
        cases hv
      · intro e
        cases e
        simp [hready] at hr
    next => rfl
  · rw [hget] at hy
    split at hy
    next =>
      cases hy
      cases hvy
    next => exact ⟨y, hy, hvy, rfl, .refl _⟩

theorem InFlight.retire (h : InFlight s) (hsized : Sized s) (hpo : ProgramOrder s) : InFlight s.retire :=
  (retire_induction hsized hpo h.stampedForRetire fun _ _ _ _ h hx _ hr => h.retireOne hx hr).2.2

/-! Writeback -/

/-- What Writeback makes of a slot, where sequence numbers are unique: it is as before and no record of WB has its number, or it is
ready and holds such a record. -/
theorem State.writeback_slot {n : Nat} (hn : Ordered s n) (hsized : Sized s) (hnodup : (s.wb.map (·.seq)).Nodup) {j : Nat} {x : RobSlot}
    (hx : s.rob[j]? = some x) :
    (s.writeback.rob[j]? = some x ∧ ∀ i ∈ s.wb, x.holds i.seq = false) ∨
      ∃ i ∈ s.wb, x.holds i.seq = true ∧ s.writeback.rob[j]? = some (x.written ((i.stamp .wb s.cycle).leave .wb s.cycle)) := by
  by_cases hheld : ∃ i ∈ s.wb, x.holds i.seq = true
  · obtain ⟨i, hi, hholds⟩ := hheld
    have hnodup' : ((stampAll s.wb .wb s.cycle).map fun i => i.seq).Nodup := by rwa [map_seq_stampAll]
    have hmem : i.stamp .wb s.cycle ∈ stampAll s.wb .wb s.cycle := List.mem_map_of_mem hi
    exact .inr ⟨i, hi, hholds, writebackAll_get_holder (hn.unique hsized.rob) hnodup' hx hmem hholds⟩
  · have hnone : ∀ i ∈ s.wb, x.holds i.seq = false := by simpa using hheld
    refine .inl ⟨writebackAll_get_other hx fun i hi => ?_, hnone⟩
    obtain ⟨m, hm, rfl⟩ := List.mem_map.mp hi
    exact hnone m hm

theorem InFlight.wb_nodup (h : InFlight s) : (s.wb.map (·.seq)).Nodup := by
  have honce := h.once
  rw [State.travelling, List.map_append] at honce
  exact (List.nodup_append.mp honce).2.1

/-- No unfinished record has the number of a record in WB. -/
theorem InFlight.seq_ne (h : InFlight s) {i j : InsRec} (hi : i ∈ s.unfinished) (hj : j ∈ s.wb) : i.seq ≠ j.seq := by
  have honce := h.once
  rw [State.travelling, List.map_append] at honce
  exact (List.nodup_append.mp honce).2.2 _ (List.mem_map_of_mem hi) _ (List.mem_map_of_mem hj)

theorem InFlight.writeback (h : InFlight s) (hsized : Sized s) (hpo : ProgramOrder s) : InFlight s.writeback := by
  obtain ⟨n, hn⟩ := programOrder_iff.mp hpo
  have hslot {j : Nat} {x : RobSlot} (hx : s.rob[j]? = some x) := State.writeback_slot hn hsized h.wb_nodup hx
  have hsource {j : Nat} {y : RobSlot} (hy : s.writeback.rob[j]? = some y) : ∃ x, s.rob[j]? = some x := by
    obtain ⟨hj, -⟩ := List.getElem?_eq_some_iff.mp hy
    exact ⟨_, List.getElem?_eq_getElem (by rwa [State.writeback, writebackAll_length] at hj)⟩
  have hholder {j : Nat} {x : RobSlot} {i : InsRec} (hx : s.rob[j]? = some x) (hi : i ∈ s.wb) (hholds : x.holds i.seq = true) :
      i.dstTag = some j ∧ SameIdentity x.ins i := by
    obtain ⟨hv, hseq⟩ := (x.holds_iff _).mp hholds
    obtain ⟨k, z, htag, hz, -, -, hsame, honly⟩ := h.owns i (mem_travelling.mpr (.inr hi))
    obtain rfl := honly j x hx hv hseq
    obtain rfl := Option.some.inj (hz.symm.trans hx)
    exact ⟨htag, hsame⟩
  have htravelling : s.writeback.travelling = s.unfinished := List.append_nil _
  constructor
  case owns =>
    intro i hi
    rw [htravelling] at hi
    refine (h.owns i (mem_travelling.mpr (.inl hi))).of_rob (fun k x _ hseq hx hv hr => ?_) fun j y hy hvy hseq => ?_
    · rcases hslot hx with ⟨hsame, -⟩ | ⟨m, hm, hholds, -⟩
      · exact hsame
      · exact absurd (hseq.symm.trans ((x.holds_iff _).mp hholds).2) (h.seq_ne hi hm)
    · obtain ⟨x, hx⟩ := hsource hy
      rcases hslot hx with ⟨hsame, -⟩ | ⟨m, hm, hholds, hwritten⟩
      · obtain rfl := Option.some.inj (hsame.symm.trans hy)
        exact ⟨x, hx, hvy, hseq⟩
      · obtain rfl := Option.some.inj (hwritten.symm.trans hy)
        exact absurd (show i.seq = m.seq from hseq.symm) (h.seq_ne hi hm)
  case once =>
    rw [htravelling]
    have honce := h.once
    rw [State.travelling, List.map_append] at honce
    exact (List.nodup_append.mp honce).1
  case present =>
    intro k y hy hv hr
    obtain ⟨x, hx⟩ := hsource hy
    rcases hslot hx with ⟨hsame, hnone⟩ | ⟨m, hm, hholds, hwritten⟩
    · obtain rfl := Option.some.inj (hsame.symm.trans hy)
      obtain ⟨i, hi, htag⟩ := h.present k x hx hv hr
      rcases mem_travelling.mp hi with hi' | hwb
      · exact ⟨i, htravelling ▸ hi', htag⟩
      · obtain ⟨k', z, htag', hz, hvz, -, hsame', -⟩ := h.owns i hi
        obtain rfl : k = k' := Option.some.inj (htag.symm.trans htag')
        obtain rfl := Option.some.inj (hz.symm.trans hx)
        have hheld := hnone i hwb
        rw [(z.holds_iff _).mpr ⟨hvz, hsame'.seq⟩] at hheld
        cases hheld
    · obtain rfl := Option.some.inj (hwritten.symm.trans hy)
      cases hr
  case slots =>
    intro y hy hv
    obtain ⟨j, hj⟩ := List.mem_iff_getElem?.mp hy
    obtain ⟨x, hx⟩ := hsource hj
    rcases hslot hx with ⟨hsame, -⟩ | ⟨m, hm, hholds, hwritten⟩
    · obtain rfl := Option.some.inj (hsame.symm.trans hj)
      exact h.slots x (List.mem_of_getElem? hx) hv
    · obtain rfl := Option.some.inj (hwritten.symm.trans hj)
      exact (h.slots x (List.mem_of_getElem? hx) hv).trans (hholder hx hm hholds).2.dst
  case front => exact h.front

/-! Rename -/

theorem InFlight.renameHead {n : Nat} {i : InsRec} {b : List InsRec} (h : InFlight s) (hready : RenameReady s n i b) :
    InFlight (s.renameHead i b) := by
  have hfresh {j : InsRec} (hj : j ∈ s.travelling) : j.seq < i.seq := by
    obtain ⟨k, x, -, hx, hv, -, hsame, -⟩ := h.owns j hj
    exact hsame.seq ▸ hready.younger hx hv
  have htravelling : (s.renameHead i b).travelling.Perm (i.renamed s.rmt s.tail s.cycle :: s.travelling) := by
    show (s.rr ++ [_] ++ s.di ++ queued s.iq ++ s.exl.map ExlEntry.ins ++ s.wb).Perm
      (_ :: (s.rr ++ s.di ++ queued s.iq ++ s.exl.map ExlEntry.ins ++ s.wb))
    simp only [List.append_assoc, List.cons_append, List.nil_append]
    exact List.perm_middle
  constructor
  case owns =>
    intro j hj
    rcases List.mem_cons.mp (htravelling.mem_iff.mp hj) with rfl | hold
    · refine ⟨s.tail, _, rfl, by rw [hready.rob_get, if_pos rfl], rfl, rfl, ⟨rfl, rfl, rfl, rfl, rfl, rfl⟩, fun m y hy hvy hseq => ?_⟩
      rw [hready.rob_get] at hy
      split at hy
      next hm => exact hm
      next => exact absurd hseq (hready.younger hy hvy).ne
    · refine (h.owns j hold).of_rob (fun k x _ _ hx hv _ => ?_) fun m y hy hvy hseq => ?_
      · rw [hready.rob_get, if_neg (hready.ne_tail hx hv)]
        exact hx
      · rw [hready.rob_get] at hy
        split at hy
        next =>
          cases hy
          exact absurd hseq.symm (hfresh hold).ne
        next => exact ⟨y, hy, hvy, hseq⟩
  case once =>
    refine (htravelling.map (·.seq)).nodup_iff.mpr (List.nodup_cons.mpr ⟨fun hmem => ?_, h.once⟩)
    obtain ⟨j, hj, hseq⟩ := List.mem_map.mp hmem
    exact absurd hseq (hfresh hj).ne
  case present =>
    intro k x hx hv hr
    rw [hready.rob_get] at hx
    split at hx
    next hk => exact ⟨_, htravelling.mem_iff.mpr (List.mem_cons_self ..), congrArg some hk.symm⟩
    next =>
      obtain ⟨j, hj, htag⟩ := h.present k x hx hv hr
      exact ⟨j, htravelling.mem_iff.mpr (List.mem_cons_of_mem _ hj), htag⟩
  case slots =>
    intro x hx hv
    obtain ⟨k, hk⟩ := List.mem_iff_getElem?.mp hx
    rw [hready.rob_get] at hk
    split at hk
    next =>
      cases hk
      rfl
    next => exact h.slots x (List.mem_of_getElem? hk) hv
  case front =>
    intro j hj
    refine h.front j ?_
    rw [hready.rn]
    exact List.mem_cons_of_mem _ hj

theorem InFlight.rename (h : InFlight s) (hsized : Sized s) (hpo : ProgramOrder s) : InFlight s.rename := by
  refine (rename_induction hsized hpo (h.of_cores (.refl _) rfl (NoTags.of_sources h.front fun i hi => ?_))
    fun _ _ _ _ hready h => h.renameHead hready).2.2
  rcases List.mem_append.mp hi with hi | hi
  · obtain ⟨j, hj, rfl⟩ := List.mem_map.mp hi
    exact ⟨j, List.mem_append_left _ hj, rfl, rfl, rfl⟩
  · exact ⟨i, List.mem_append_right _ hi, rfl, rfl, rfl⟩

/-! The step -/

theorem InFlight.stages (h : InFlight s) (hsized : Sized s) (hpo : ProgramOrder s) : InFlight s.stages :=
  (((h.retire hsized hpo).writeback hsized.retire (hpo.retire hsized)).execute.issue.dispatch.regRead.rename
    hsized.retire.writeback.execute.issue.dispatch.regRead
    (hpo.retire hsized).writeback.execute.issue.dispatch.regRead).decode

theorem InFlight.step {t : State} (h : InFlight s) (hsized : Sized s) (hpo : ProgramOrder s) (hstep : step s = .next t) :
    InFlight t :=
  step_keeps_of (fun _ => h.stages hsized hpo) InFlight.fetch InFlight.advance h hstep

end

/-- Settles O58: four stages only move records; Rename takes a free slot and a fresh number, Writeback makes the slots of the records
it takes ready, Retire frees ready slots. -/
theorem inFlightIsKept : Obligations.InFlightIsKept := fun _ _ hsized hpo h hstep => h.step hsized hpo hstep

theorem inFlight_start (cfg : Config) (trace : List TraceLine) : InFlight (State.start cfg trace) := by
  have hnone : (State.start cfg trace).travelling = [] := by
    simp [State.travelling, State.unfinished, State.start, IqSlot.free]
  constructor
  case owns => simp [hnone]
  case once => simp [hnone]
  case present =>
    intro k x hx hv
    obtain rfl := List.eq_of_mem_replicate (List.mem_of_getElem? hx)
    cases hv
  case slots =>
    intro x hx hv
    obtain rfl := List.eq_of_mem_replicate hx
    cases hv
  case front => exact List.forall_mem_nil _

end Sys2Proof.Machine
end

section
/-!
PROOFS. Group alignment of the front-end buffers (rule R237): each stage moves a whole buffer or nothing, and O47.
-/

namespace Sys2Proof.Machine

/-! One buffer -/

section
variable {s t : State} {b b' up up' : List InsRec}

theorem Group.nil (s : State) (up : List InsRec) : Group s [] up := ⟨.inl rfl, List.forall_mem_nil _⟩

theorem Group.length_le (h : Group s b up) : b.length ≤ s.cfg.width := by
  rcases h.1 with rfl | hfull | ⟨hshort, -, -⟩
  · exact Nat.zero_le _
  · exact hfull.le
  · exact hshort.le

/-- A group is a matter of the number of records, of their fetch stamps and of whether something follows. -/
theorem Group.of_stamps_eq (h : Group s b up) (hcfg : t.cfg = s.cfg) (hdone : t.traceDone = s.traceDone)
    (hb : b'.map (·.cyc .fe) = b.map (·.cyc .fe)) (hup : up = [] → up' = []) : Group t b' up' := by
  obtain ⟨hsize, hstamps⟩ := h
  have hlen : b'.length = b.length := by simpa using congrArg List.length hb
  refine ⟨?_, fun i hi j hj => ?_⟩
  · rw [hlen, hcfg, hdone, ← List.length_eq_zero_iff, hlen, List.length_eq_zero_iff]
    exact hsize.imp id (.imp id fun ⟨hshort, hend, hnil⟩ => ⟨hshort, hend, hup hnil⟩)
  · have hmem {i : InsRec} (hi : i ∈ b') : ∃ m ∈ b, m.cyc .fe = i.cyc .fe :=
      List.mem_map.mp (hb ▸ List.mem_map_of_mem (f := fun i : InsRec => i.cyc .fe) hi)
    obtain ⟨m, hm, hmi⟩ := hmem hi
    obtain ⟨m', hm', hmj⟩ := hmem hj
    rw [← hmi, ← hmj]
    exact hstamps m hm m' hm'

/-- While the stream goes on a group is empty or full. -/
theorem Group.of_running (h : Group s b up) (hlatch : s.traceDone = false) (hcfg : t.cfg = s.cfg) : Group t b up' := by
  refine ⟨?_, h.2⟩
  rcases h.1 with hnil | hfull | ⟨-, hend, -⟩
  · exact .inl hnil
  · exact .inr (.inl (hcfg ▸ hfull))
  · simp [hlatch] at hend

/-- What the room of the next buffer takes of a group: all of it where that buffer is empty, else nothing. -/
theorem Group.moves (hb : Group s b up) {dst : List InsRec} (hdst : Group s dst (b ++ up')) {l : List InsRec}
    (hl : l.length = b.length) :
    (dst = [] ∧ l.take (s.cfg.width - dst.length) = l ∧ l.drop (s.cfg.width - dst.length) = []) ∨
      (l.take (s.cfg.width - dst.length) = [] ∧ l.drop (s.cfg.width - dst.length) = l) := by
  have hle := hb.length_le
  rcases hdst.1 with rfl | hfull | ⟨-, -, hnil⟩
  · refine .inl ⟨rfl, List.take_of_length_le ?_, List.drop_eq_nil_of_le ?_⟩ <;> (rw [List.length_nil, Nat.sub_zero]; omega)
  · exact .inr (by simp [hfull])
  · obtain ⟨rfl, -⟩ := List.append_eq_nil_iff.mp hnil
    obtain rfl := List.length_eq_zero_iff.mp hl
    exact .inr (by simp)

end

theorem map_fetched_stampAll (b : List InsRec) {st : Stage} (h : Stage.fe ≠ st) (c : Nat) :
    (stampAll b st c).map (·.cyc .fe) = b.map (·.cyc .fe) := by
  simp [stampAll, Function.comp_def, h]

/-! The stages -/

section
variable {s : State}

theorem GroupAligned.of_stamps_eq {t : State} (h : GroupAligned s) (hcfg : t.cfg = s.cfg) (hdone : t.traceDone = s.traceDone)
    (hde : t.de.map (·.cyc .fe) = s.de.map (·.cyc .fe)) (hrn : t.rn.map (·.cyc .fe) = s.rn.map (·.cyc .fe))
    (hrr : t.rr.map (·.cyc .fe) = s.rr.map (·.cyc .fe)) (hdi : t.di.map (·.cyc .fe) = s.di.map (·.cyc .fe)) :
    GroupAligned t := by
  have hnil {b b' : List InsRec} (h : b'.map (·.cyc .fe) = b.map (·.cyc .fe)) (hb : b = []) : b' = [] := by simpa [hb] using h
  refine ⟨h.de.of_stamps_eq hcfg hdone hde id, h.rn.of_stamps_eq hcfg hdone hrn (hnil hde),
    h.rr.of_stamps_eq hcfg hdone hrr fun hup => ?_, h.di.of_stamps_eq hcfg hdone hdi fun hup => ?_⟩
  · obtain ⟨h1, h2⟩ := List.append_eq_nil_iff.mp hup
    rw [hnil hrn h1, hnil hde h2]
    rfl
  · obtain ⟨h12, h3⟩ := List.append_eq_nil_iff.mp hup
    obtain ⟨h1, h2⟩ := List.append_eq_nil_iff.mp h12
    rw [hnil hrr h1, hnil hrn h2, hnil hde h3]
    rfl

theorem GroupAligned.retire (h : GroupAligned s) : GroupAligned s.retire := by
  apply h.of_stamps_eq <;> simp

theorem GroupAligned.writeback (h : GroupAligned s) : GroupAligned s.writeback := by
  apply h.of_stamps_eq <;> simp

theorem GroupAligned.issue (h : GroupAligned s) : GroupAligned s.issue := by
  apply h.of_stamps_eq <;> simp

theorem GroupAligned.advance (h : GroupAligned s) : GroupAligned s.advance := by
  apply h.of_stamps_eq <;> simp

theorem GroupAligned.execute (h : GroupAligned s) : GroupAligned s.execute := by
  have hwake (b : List InsRec) (ts : List (Option Nat)) :
      (b.map fun i => i.wakeAll ts).map (·.cyc .fe) = b.map (·.cyc .fe) := by
    rw [List.map_map]
    rfl
  rw [s.execute_frame]
  exact h.of_stamps_eq rfl rfl rfl rfl (hwake ..) (hwake ..)

/-- Dispatch moves the whole of DI or nothing (rule R143). -/
theorem State.dispatch_all_or_nothing (h : s.di.length ≤ s.cfg.width) :
    (s.dispatch.di = [] ∧ s.cfg.width ≤ s.iqFree) ∨ s.dispatch = { s with di := stampAll s.di .di s.cycle } := by
  by_cases hfree : s.iqFree < s.cfg.width
  · exact .inr (State.dispatch_of_full hfree)
  · obtain ⟨slots, q, -, hloop⟩ := State.dispatchLoop_placements (s := s) (b := stampAll s.di .di s.cycle) (by
      rw [stampAll_length]
      omega)
    refine .inl ⟨?_, by omega⟩
    rw [State.dispatch_of_admits (by omega), hloop]

theorem GroupAligned.dispatch (h : GroupAligned s) : GroupAligned s.dispatch := by
  rcases State.dispatch_all_or_nothing h.di.length_le with ⟨hnil, -⟩ | hstamp
  · have hsame {b up : List InsRec} (hb : Group s b up) : Group s.dispatch b up :=
      hb.of_stamps_eq s.dispatch_cfg s.dispatch_traceDone rfl id
    refine ⟨?_, ?_, ?_, hnil ▸ Group.nil _ _⟩
    · rw [s.dispatch_de]
      exact hsame h.de
    · rw [s.dispatch_rn, s.dispatch_de]
      exact hsame h.rn
    · rw [s.dispatch_rr, s.dispatch_rn, s.dispatch_de]
      exact hsame h.rr
  · rw [hstamp]
    exact h.of_stamps_eq rfl rfl rfl rfl rfl (map_fetched_stampAll _ (by decide) _)

theorem GroupAligned.regRead (h : GroupAligned s) : GroupAligned s.regRead := by
  have hstamp := map_fetched_stampAll s.rr (st := .rr) (by decide) s.cycle
  rw [s.regRead_eq]
  rcases h.rr.moves (up' := s.rn ++ s.de) (by rw [← List.append_assoc]; exact h.di) (stampAll_length s.rr .rr s.cycle) with
    ⟨hdi, htake, hdrop⟩ | ⟨htake, hdrop⟩
  · rw [htake, hdrop, hdi, List.nil_append]
    refine ⟨h.de, h.rn, Group.nil _ _, h.rr.of_stamps_eq rfl rfl ?_ id⟩
    rw [List.map_map]
    exact hstamp
  · rw [htake, hdrop, List.map_nil, List.append_nil]
    exact h.of_stamps_eq rfl rfl rfl rfl hstamp rfl

theorem GroupAligned.decode (h : GroupAligned s) : GroupAligned s.decode := by
  have hstamp := map_fetched_stampAll s.de (st := .de) (by decide) s.cycle
  rw [s.decode_eq]
  rcases h.de.moves (up' := []) (by rw [List.append_nil]; exact h.rn) (stampAll_length s.de .de s.cycle) with
    ⟨hrn, htake, hdrop⟩ | ⟨htake, hdrop⟩
  · rw [htake, hdrop, hrn, List.nil_append]
    have hmoved : ((stampAll s.de .de s.cycle).map fun i => i.leave .de s.cycle).map (·.cyc .fe) = s.de.map (·.cyc .fe) := by
      rw [List.map_map, ← hstamp]
      exact List.map_congr_left fun i _ => i.leave_cyc .de .fe s.cycle
    have hnil : (stampAll s.de .de s.cycle).map (fun i => i.leave .de s.cycle) = [] ↔ s.de = [] := by simp [stampAll]
    refine ⟨Group.nil _ _, h.de.of_stamps_eq rfl rfl hmoved id, h.rr.of_stamps_eq rfl rfl rfl fun hup => ?_,
      h.di.of_stamps_eq rfl rfl rfl fun hup => ?_⟩
    · obtain ⟨-, h2⟩ := List.append_eq_nil_iff.mp hup
      rw [List.append_nil, hnil, h2]
    · obtain ⟨h1, h2⟩ := List.append_eq_nil_iff.mp hup
      obtain ⟨h1, -⟩ := List.append_eq_nil_iff.mp h1
      rw [List.append_nil]
      exact List.append_eq_nil_iff.mpr ⟨h1, hnil.mpr h2⟩
  · rw [htake, hdrop, List.map_nil, List.append_nil]
    exact h.of_stamps_eq rfl rfl hstamp rfl rfl rfl

/-- What the renames of a tick leave of the records, in RR behind those that stood there. -/
theorem State.map_renameAll_rr {α : Type} {g : InsRec → α}
    (hg : ∀ (i : InsRec) (rmt : Vector RmtEntry numArf) (t c : Nat), g (i.renamed rmt t c) = g i) (s : State) (l : List InsRec) :
    (s.renameAll l).rr.map g = s.rr.map g ++ l.map g := by
  induction l generalizing s with
  | nil => simp
  | cons i l ih => simp [State.renameAll_cons, ih, hg]

theorem GroupAligned.rename (h : GroupAligned s) : GroupAligned s.rename := by
  have hstamp := map_fetched_stampAll s.rn (st := .rn) (by decide) s.cycle
  by_cases hfree : s.robFree < s.cfg.width
  · rw [State.rename_of_full hfree]
    exact h.of_stamps_eq rfl rfl rfl hstamp rfl rfl
  · rw [State.rename_of_admits (by omega)]
    rcases h.rn.moves (up' := s.de) h.rr (stampAll_length s.rn .rn s.cycle) with ⟨hrr, htake, hdrop⟩ | ⟨htake, hdrop⟩
    · rw [htake, hdrop]
      have hmoved := State.map_renameAll_rr (g := fun i => i.cyc .fe) (fun i _ _ c => i.leave_cyc .rn .fe c) s
        (stampAll s.rn .rn s.cycle)
      rw [hrr, List.map_nil, List.nil_append, hstamp] at hmoved
      have hnil : (s.renameAll (stampAll s.rn .rn s.cycle)).rr = [] ↔ s.rn = [] := by
        rw [← List.length_eq_zero_iff, State.renameAll_rr_length, hrr, stampAll_length]
        simp
      rw [State.renameAll_frame]
      refine ⟨h.de.of_stamps_eq rfl rfl rfl id, Group.nil _ _, h.rn.of_stamps_eq rfl rfl hmoved id,
        h.di.of_stamps_eq rfl rfl rfl fun hup => ?_⟩
      obtain ⟨h12, h3⟩ := List.append_eq_nil_iff.mp hup
      rw [List.append_nil]
      exact List.append_eq_nil_iff.mpr ⟨hnil.mpr (List.append_eq_nil_iff.mp h12).2, h3⟩
    · rw [htake, hdrop]
      exact h.of_stamps_eq rfl rfl rfl hstamp rfl rfl

theorem GroupAligned.stages (h : GroupAligned s) : GroupAligned s.stages :=
  h.retire.writeback.execute.issue.dispatch.regRead.rename.decode

/-- Fetch fills an empty DE with one group, full unless the stream ends (rules R120, R121). -/
theorem GroupAligned.fetch {t : State} (h : GroupAligned s) (hfetch : fetch s = .next t) : GroupAligned t := by
  cases hlatch : s.traceDone with
  | true =>
    rw [fetch_of_traceDone hlatch] at hfetch
    exact Host.Outcome.next.inj hfetch ▸ h
  | false =>
    obtain ⟨l, lines, rest, -, -, -, hroom, hresult, hstop⟩ := fetch_takes hlatch hfetch
    have hgroup : Group t t.de [] := by
      rcases h.de.1 with hnil | hfull | ⟨-, hend, -⟩
      · rw [hnil, List.nil_append] at hresult
        have hlen : t.de.length = l.length := by rw [hresult]; simp
        have hcfg : t.cfg = s.cfg := fetch_cfg hfetch
        rw [hnil, List.length_nil, Nat.sub_zero] at hroom
        refine ⟨?_, ?_⟩
        · rcases hstop with ⟨hdone, -, -⟩ | ⟨-, -, hfull | hfull⟩
          · rcases Nat.lt_or_eq_of_le hroom with hlt | heq
            · exact .inr (.inr ⟨by rw [hlen, hcfg]; exact hlt, hdone, rfl⟩)
            · exact .inr (.inl (by rw [hlen, hcfg, heq]))
          · exact .inr (.inl (by rw [hlen, hcfg, hfull]))
          · exact .inr (.inl (by rw [hcfg]; omega))
        · have hcyc : ∀ i ∈ t.de, i.cyc .fe = some s.cycle := by
            rw [hresult]
            intro i hi
            obtain ⟨p, -, rfl⟩ := List.mem_map.mp hi
            rfl
          intro i hi j hj
          rw [hcyc i hi, hcyc j hj]
      · have hl : l = [] := List.length_eq_zero_iff.mp (by omega)
        rw [hl, List.zipIdx_nil, List.map_nil, List.append_nil] at hresult
        have hde : t.de = s.de := by rw [hresult]
        rw [hde]
        exact h.de.of_running hlatch (fetch_cfg hfetch)
      · simp [hlatch] at hend
    have hcfg := fetch_cfg hfetch
    have hframe := fetch_frame hfetch
    have hrn : t.rn = s.rn := by rw [hframe]
    have hrr : t.rr = s.rr := by rw [hframe]
    have hdi : t.di = s.di := by rw [hframe]
    exact ⟨hgroup, hrn ▸ h.rn.of_running hlatch hcfg, hrr ▸ h.rr.of_running hlatch hcfg, hdi ▸ h.di.of_running hlatch hcfg⟩

theorem GroupAligned.step {t : State} (h : GroupAligned s) (hstep : step s = .next t) : GroupAligned t :=
  step_keeps_of (fun _ => h.stages) GroupAligned.fetch GroupAligned.advance h hstep

end

/-- Settles O47: each stage moves its whole buffer into an empty one or nothing, and Fetch fills an empty DE. -/
theorem groupAlignmentIsKept : Obligations.GroupAlignmentIsKept := fun _ _ h hstep => h.step hstep

theorem groupAligned_start (cfg : Config) (trace : List TraceLine) : GroupAligned (State.start cfg trace) :=
  ⟨Group.nil _ _, Group.nil _ _, Group.nil _ _, Group.nil _ _⟩

end Sys2Proof.Machine
end

section
/-!
PROOFS. Wakeup (rules R236, R238, R246, R251): what the stages Retire, Writeback and Execute make of the tags held and of the producers
they name.
-/

namespace Sys2Proof.Machine

/-! Producers -/

/-- Between Writeback and Rename the invariant holds with a narrower list of producers for the tags of RR: those that have not completed
execution. -/
structure WakeupAmong (s : State) (l : List InsRec) : Prop where
  source : ∀ j ∈ s.unfinished, (j.src1 = none → j.src1Tag = none) ∧ (j.src2 = none → j.src2Tag = none)
  rr : ∀ j ∈ s.rr, ∀ r t, HoldsTag j r t → NamesProducer s j r t ∧ (robReady s.rob t = true ∨ WaitsFor j r t l)
  di : ∀ j ∈ s.di, ∀ r t, HoldsTag j r t → NamesProducer s j r t ∧ WaitsFor j r t s.unfinished
  iq : ∀ x ∈ s.iq, x.valid = true → ∀ r t, HoldsTag x.ins r t → NamesProducer s x.ins r t ∧ WaitsFor x.ins r t s.unfinished
  exl : ∀ e ∈ s.exl, e.ins.src1Tag = none ∧ e.ins.src2Tag = none
  enforced : ∀ j ∈ s.unfinished, ∀ p ∈ s.unfinished, ∀ r, LatestProducer s j p r →
    (j.src1 = some r → j.src1Tag = p.dstTag) ∧ (j.src2 = some r → j.src2Tag = p.dstTag)

theorem wakeupSound_iff {s : State} : WakeupSound s ↔ WakeupAmong s s.travelling where
  mp h := { h with }
  mpr h := { h with }

theorem WaitsFor.mono {j : InsRec} {r : ArfIndex} {t : Nat} {l m : List InsRec} (h : WaitsFor j r t l) (hlm : ∀ i ∈ l, i ∈ m) :
    WaitsFor j r t m := by
  obtain ⟨p, hp, hrest⟩ := h
  exact ⟨p, hlm p hp, hrest⟩

theorem WakeupAmong.mono {s : State} {l m : List InsRec} (h : WakeupAmong s l) (hlm : ∀ i ∈ l, i ∈ m) : WakeupAmong s m := by
  refine { h with rr := fun j hj r t ht => ?_ }
  obtain ⟨hnames, hwait⟩ := h.rr j hj r t ht
  exact ⟨hnames, hwait.imp id fun hw => hw.mono hlm⟩

/-- A waiting record may move, and so may its producer. -/
theorem WaitsFor.of_cores {j j' : InsRec} {r : ArfIndex} {t : Nat} {l m : List InsRec} (h : WaitsFor j r t l) (hseq : j'.seq = j.seq)
    (hlm : ∀ p ∈ l, p.dstTag = some t → ∃ q ∈ m, p.core = q.core) : WaitsFor j' r t m := by
  obtain ⟨p, hp, htag, hdst, hlt⟩ := h
  obtain ⟨q, hq, hcore⟩ := hlm p hp htag
  obtain ⟨hsame, htags⟩ := InsRec.core_eq_iff.mp hcore
  exact ⟨q, hq, htags.symm.trans htag, hsame.dst.symm.trans hdst, by rw [← hsame.seq, hseq]; exact hlt⟩

/-- The producer a tag names is a matter of the claims of the ROB slots and of OUT. -/
theorem NamesProducer.of_claims {s t : State} {j j' : InsRec} {r : ArfIndex} {k : Nat} (h : NamesProducer s j r k)
    (hrob : t.rob.map RobSlot.claim = s.rob.map RobSlot.claim) (hout : t.out = s.out) (hseq : j'.seq = j.seq) :
    NamesProducer t j' r k := by
  obtain ⟨x, hx, hdst, hlt, hlatest, hretired⟩ := h
  obtain ⟨x', hx', hclaim⟩ := exists_of_map_claim_eq hrob hx
  obtain ⟨-, hdst', hseq'⟩ := RobSlot.claim_eq_iff.mp hclaim
  refine ⟨x', hx', hdst'.trans hdst, by rw [hseq', hseq]; exact hlt, fun y hy hv hd hy' => ?_, fun o ho hd => ?_⟩
  · obtain ⟨z, hz, hclaimz⟩ := exists_mem_of_map_claim_eq hrob.symm hy
    obtain ⟨hvz, hdz, hsz⟩ := RobSlot.claim_eq_iff.mp hclaimz
    rw [hseq', ← hsz]
    exact hlatest z hz (hvz.trans hv) (hdz.trans hd) (by rw [hsz, ← hseq]; exact hy')
  · rw [hseq']
    exact hretired o (hout ▸ ho) hd

theorem LatestProducer.of_claims {s t : State} {j j' p p' : InsRec} {r : ArfIndex} (h : LatestProducer t j' p' r)
    (hrob : t.rob.map RobSlot.claim = s.rob.map RobSlot.claim) (hj : j'.seq = j.seq) (hp : p'.core = p.core) :
    LatestProducer s j p r := by
  obtain ⟨hdst, hlt, hlatest⟩ := h
  obtain ⟨hsame, -⟩ := InsRec.core_eq_iff.mp hp
  refine ⟨hsame.dst.symm.trans hdst, by rw [← hsame.seq, ← hj]; exact hlt, fun y hy hv hd hy' => ?_⟩
  obtain ⟨z, hz, hclaimz⟩ := exists_mem_of_map_claim_eq hrob hy
  obtain ⟨hvz, hdz, hsz⟩ := RobSlot.claim_eq_iff.mp hclaimz
  rw [← hsame.seq, ← hsz]
  exact hlatest z hz (hvz.trans hv) (hdz.trans hd) (by rw [hsz, hj]; exact hy')

section
variable {s : State}

/-- The invariant reads of the ROB its claims and the `ready` bits, where more bits may be set. -/
theorem WakeupAmong.of_claims {t : State} {l : List InsRec} (h : WakeupAmong s l)
    (hrob : t.rob.map RobSlot.claim = s.rob.map RobSlot.claim) (hready : ∀ k, robReady s.rob k = true → robReady t.rob k = true)
    (hout : t.out = s.out) (hrr : t.rr = s.rr) (hdi : t.di = s.di) (hiq : t.iq = s.iq) (hexl : t.exl = s.exl) : WakeupAmong t l := by
  have hunfinished : t.unfinished = s.unfinished := by rw [State.unfinished, State.unfinished, hrr, hdi, hiq, hexl]
  constructor
  case source => exact hunfinished ▸ h.source
  case rr =>
    intro j hj r k hk
    obtain ⟨hnames, hwait⟩ := h.rr j (hrr ▸ hj) r k hk
    exact ⟨hnames.of_claims hrob hout rfl, hwait.imp (hready k) id⟩
  case di =>
    intro j hj r k hk
    obtain ⟨hnames, hwait⟩ := h.di j (hdi ▸ hj) r k hk
    exact ⟨hnames.of_claims hrob hout rfl, hunfinished ▸ hwait⟩
  case iq =>
    intro x hx hv r k hk
    obtain ⟨hnames, hwait⟩ := h.iq x (hiq ▸ hx) hv r k hk
    exact ⟨hnames.of_claims hrob hout rfl, hunfinished ▸ hwait⟩
  case exl => exact hexl ▸ h.exl
  case enforced =>
    intro j hj p hp r hlatest
    exact h.enforced j (hunfinished ▸ hj) p (hunfinished ▸ hp) r (hlatest.of_claims hrob rfl rfl)

theorem robReady_eq (rob : List RobSlot) (k : Nat) : robReady rob k = ((rob[k]?).map (·.ready)).getD false := by
  unfold robReady
  cases rob[k]? <;> rfl

theorem robReady_eq_true {rob : List RobSlot} {k : Nat} : robReady rob k = true ↔ ∃ x, rob[k]? = some x ∧ x.ready = true := by
  rw [robReady_eq]
  cases rob[k]? <;> simp

/-- The slot an owner names is not ready. -/
theorem OwnsSlot.not_ready {i : InsRec} {k : Nat} (h : OwnsSlot s i) (hk : i.dstTag = some k) : robReady s.rob k = false := by
  obtain ⟨m, x, hm, hx, -, hr, -⟩ := h
  obtain rfl : m = k := Option.some.inj (hm.symm.trans hk)
  simp [robReady, hx, hr]

/-! Retire -/

/-- An instruction in flight is younger than the one that retires. -/
theorem OwnsSlot.younger_than_head {n : Nat} {i : InsRec} {x : RobSlot} (h : OwnsSlot s i) (hn : Ordered s n) (hsized : Sized s)
    (hx : s.rob[s.head]? = some x) (hv : x.valid = true) (hr : x.ready = true) : x.ins.seq < i.seq := by
  obtain ⟨k, y, -, hy, hvy, hry, hsame, -⟩ := h
  have hk : k ≠ s.head := by
    rintro rfl
    obtain rfl := Option.some.inj (hx.symm.trans hy)
    simp [hr] at hry
  exact hsame.seq ▸ hn.head_lt hsized.rob hsized.head hx hv hy hvy hk

theorem mem_unfinished_of_mem_rr {j : InsRec} (h : j ∈ s.rr) : j ∈ s.unfinished := mem_unfinished.mpr (.inl h)
theorem mem_unfinished_of_mem_di {j : InsRec} (h : j ∈ s.di) : j ∈ s.unfinished := mem_unfinished.mpr (.inr (.inl h))
theorem mem_unfinished_of_mem_iq {x : IqSlot} (h : x ∈ s.iq) (hv : x.valid = true) : x.ins ∈ s.unfinished :=
  mem_unfinished.mpr (.inr (.inr (.inl ⟨x, h, hv, rfl⟩)))
theorem mem_unfinished_of_mem_exl {e : ExlEntry} (h : e ∈ s.exl) : e.ins ∈ s.unfinished :=
  mem_unfinished.mpr (.inr (.inr (.inr ⟨e, h, rfl⟩)))

theorem InFlight.owns_of_unfinished (h : InFlight s) {j : InsRec} (hj : j ∈ s.unfinished) : OwnsSlot s j :=
  h.owns j (mem_travelling.mpr (.inl hj))

theorem WakeupAmong.retireOne {n : Nat} {x : RobSlot} {l : List InsRec} (h : WakeupAmong s l) (hflight : InFlight s) (hn : Ordered s n)
    (hsized : Sized s) (hx : s.rob[s.head]? = some x) (hv : x.valid = true) (hr : x.ready = true) :
    WakeupAmong (s.retireOne x) l := by
  have hlt : s.head < s.rob.length := (List.getElem?_eq_some_iff.mp hx).1
  have hget (j : Nat) : (s.retireOne x).rob[j]? = if s.head = j then some { x with valid := false } else s.rob[j]? := by
    rw [State.retireOne_rob, List.getElem?_set, if_pos hlt]
  have hold {j : InsRec} (hj : j ∈ s.unfinished) : x.ins.seq < j.seq :=
    (hflight.owns_of_unfinished hj).younger_than_head hn hsized hx hv hr
  have hslot {y : RobSlot} (hy : y ∈ (s.retireOne x).rob) (hvy : y.valid = true) : y ∈ s.rob := by
    obtain ⟨j, hj⟩ := List.mem_iff_getElem?.mp hy
    rw [hget] at hj
    split at hj
    next =>
      cases hj
      cases hvy
    next => exact List.mem_of_getElem? hj
  have hnames {j : InsRec} {r : ArfIndex} {k : Nat} (hj : j ∈ s.unfinished) (hk : NamesProducer s j r k) :
      NamesProducer (s.retireOne x) j r k := by
    obtain ⟨y, hy, hdst, hlt', hlatest, hretired⟩ := hk
    refine ⟨if s.head = k then { x with valid := false } else y, ?_, ?_⟩
    · rw [hget]
      split
      · rfl
      · exact hy
    · have hsame : (if s.head = k then { x with valid := false } else y).dstArf = y.dstArf ∧
          (if s.head = k then { x with valid := false } else y).ins = y.ins := by
        split
        next e =>
          subst e
          obtain rfl := Option.some.inj (hx.symm.trans hy)
          exact ⟨rfl, rfl⟩
        next => exact ⟨rfl, rfl⟩
      rw [hsame.1, hsame.2]
      refine ⟨hdst, hlt', fun z hz hvz => hlatest z (hslot hz hvz) hvz, fun o ho hdo => ?_⟩
      rcases List.mem_append.mp ho with ho | ho
      · exact hretired o ho hdo
      · obtain rfl := List.mem_singleton.mp ho
        have hdx : x.dstArf = some r := (hflight.slots x (List.mem_of_getElem? hx) hv).trans hdo
        exact hlatest x (List.mem_of_getElem? hx) hv hdx (hold hj)
  have hready (k : Nat) : robReady (s.retireOne x).rob k = robReady s.rob k := by
    rw [robReady_eq, robReady_eq, hget]
    split
    next e => rw [← e, hx]; rfl
    next => rfl
  constructor
  case source => exact h.source
  case rr =>
    intro j hj r k hk
    obtain ⟨hn, hwait⟩ := h.rr j hj r k hk
    exact ⟨hnames (mem_unfinished_of_mem_rr hj) hn, by rw [hready]; exact hwait⟩
  case di =>
    intro j hj r k hk
    obtain ⟨hn, hwait⟩ := h.di j hj r k hk
    exact ⟨hnames (mem_unfinished_of_mem_di hj) hn, hwait⟩
  case iq =>
    intro z hz hvz r k hk
    obtain ⟨hn, hwait⟩ := h.iq z hz hvz r k hk
    exact ⟨hnames (mem_unfinished_of_mem_iq hz hvz) hn, hwait⟩
  case exl => exact h.exl
  case enforced =>
    rintro j hj p hp r ⟨hdst, hpj, hlatest⟩
    refine h.enforced j hj p hp r ⟨hdst, hpj, fun y hy hvy hdy hyj => ?_⟩
    obtain ⟨m, hm⟩ := List.mem_iff_getElem?.mp hy
    by_cases hmh : s.head = m
    · subst hmh
      obtain rfl := Option.some.inj (hx.symm.trans hm)
      exact (hold hp).le
    · exact hlatest y (List.mem_of_getElem? (by rw [hget, if_neg hmh]; exact hm)) hvy hdy hyj

theorem robReady_map_stampRetire (rob : List RobSlot) (c k : Nat) :
    robReady (rob.map fun x => x.stampRetire c) k = robReady rob k := by
  rw [robReady_eq, robReady_eq, List.getElem?_map]
  cases rob[k]? <;> simp

theorem WakeupSound.retire (h : WakeupSound s) (hsized : Sized s) (hpo : ProgramOrder s) (hflight : InFlight s) :
    WakeupSound s.retire := by
  refine (retire_induction (P := fun u => InFlight u ∧ WakeupSound u) hsized hpo ⟨hflight.stampedForRetire, ?_⟩
    fun u x hsz ho ⟨hf, hw⟩ hx hv hr => ?_).2.2.2
  · refine wakeupSound_iff.mpr ((wakeupSound_iff.mp h).of_claims ?_ ?_ rfl rfl rfl rfl rfl)
    · simp [State.stampedForRetire, Function.comp_def]
    · exact fun k hk => (robReady_map_stampRetire ..).trans hk
  · obtain ⟨n, hn⟩ := programOrder_iff.mp ho
    exact ⟨hf.retireOne hx hr, wakeupSound_iff.mpr ((wakeupSound_iff.mp hw).retireOne hf hn hsz hx hv hr)⟩

/-! Writeback -/

/-- After Writeback a producer that RR waits for has not completed execution, or its slot is ready (rules R171, R238). -/
theorem WakeupSound.writeback (h : WakeupSound s) (hsized : Sized s) (hpo : ProgramOrder s) (hflight : InFlight s) :
    WakeupAmong s.writeback s.writeback.unfinished := by
  obtain ⟨n, hn⟩ := programOrder_iff.mp hpo
  have hslot {j : Nat} {x : RobSlot} (hx : s.rob[j]? = some x) := State.writeback_slot hn hsized hflight.wb_nodup hx
  have hready {k : Nat} (hk : robReady s.rob k = true) : robReady s.writeback.rob k = true := by
    obtain ⟨x, hx, hr⟩ := robReady_eq_true.mp hk
    rcases hslot hx with ⟨hsame, -⟩ | ⟨i, -, -, hwritten⟩
    · exact robReady_eq_true.mpr ⟨x, hsame, hr⟩
    · exact robReady_eq_true.mpr ⟨_, hwritten, rfl⟩
  have hdone {p : InsRec} {k : Nat} (hp : p ∈ s.wb) (hk : p.dstTag = some k) : robReady s.writeback.rob k = true := by
    obtain ⟨m, x, hm, hx, hv, -, hsame, -⟩ := hflight.owns p (mem_travelling.mpr (.inr hp))
    obtain rfl : m = k := Option.some.inj (hm.symm.trans hk)
    rcases hslot hx with ⟨-, hnone⟩ | ⟨i, -, -, hwritten⟩
    · have hheld := hnone p hp
      rw [(x.holds_iff _).mpr ⟨hv, hsame.seq⟩] at hheld
      cases hheld
    · exact robReady_eq_true.mpr ⟨_, hwritten, rfl⟩
  have hbase : WakeupAmong s.writeback s.travelling :=
    (wakeupSound_iff.mp h).of_claims (map_claim_writebackAll ..) (fun _ => hready) rfl rfl rfl rfl rfl
  refine { hbase with rr := fun j hj r k hk => ?_ }
  obtain ⟨hnames, hr | ⟨p, hp, htag, hrest⟩⟩ := hbase.rr j hj r k hk
  · exact ⟨hnames, .inl hr⟩
  · rcases mem_travelling.mp hp with hp | hp
    · exact ⟨hnames, .inr ⟨p, hp, htag, hrest⟩⟩
    · exact ⟨hnames, .inl (hdone hp htag)⟩

/-! Execute -/

/-- What Execute leaves of an unfinished record: its stamp, its count, and the tags that are not broadcast. -/
theorem State.mem_execute_unfinished (hexl : ∀ e ∈ s.exl, e.ins.src1Tag = none ∧ e.ins.src2Tag = none)
    (hroom : s.wb.length + s.completing.length ≤ 5 * s.cfg.width) {i : InsRec} (hi : i ∈ s.execute.unfinished) :
    ∃ j ∈ s.unfinished, i.core = j.core ∧ i.src1Tag = clearTag (s.completing.map fun e => e.ins.dstTag) j.src1Tag ∧
      i.src2Tag = clearTag (s.completing.map fun e => e.ins.dstTag) j.src2Tag := by
  have hclear (ts : List (Option Nat)) : clearTag ts none = none := by simp [clearTag]
  obtain ⟨hkeep, -⟩ := State.execute_of_enough_room hroom
  rcases mem_unfinished.mp hi with hi | hi | ⟨x, hx, hv, rfl⟩ | ⟨e, he, rfl⟩
  · rw [s.execute_frame] at hi
    obtain ⟨j, hj, rfl⟩ := List.mem_map.mp hi
    exact ⟨j, mem_unfinished_of_mem_rr hj, rfl, rfl, rfl⟩
  · rw [s.execute_frame] at hi
    obtain ⟨j, hj, rfl⟩ := List.mem_map.mp hi
    exact ⟨j, mem_unfinished_of_mem_di hj, rfl, rfl, rfl⟩
  · rw [s.execute_frame] at hx
    obtain ⟨y, hy, rfl⟩ := List.mem_map.mp hx
    rw [IqSlot.wakeAll_valid] at hv
    rw [IqSlot.wakeAll_of_valid hv]
    exact ⟨y.ins, mem_unfinished_of_mem_iq hy hv, rfl, rfl, rfl⟩
  · rw [hkeep] at he
    obtain ⟨e₀, he₀, rfl⟩ := List.mem_map.mp (List.mem_filter.mp he).1
    obtain ⟨h1, h2⟩ := hexl e₀ he₀
    refine ⟨e₀.ins, mem_unfinished_of_mem_exl he₀, rfl, ?_, ?_⟩
    · rw [h1, hclear]
      exact h1
    · rw [h2, hclear]
      exact h2

/-- Two instructions in flight that name one slot are the same. -/
theorem InFlight.seq_eq_of_dstTag (h : InFlight s) {i j : InsRec} (hi : i ∈ s.travelling) (hj : j ∈ s.travelling)
    (htag : i.dstTag = j.dstTag) : i.seq = j.seq := by
  obtain ⟨k, x, hk, hx, -, -, hsame, -⟩ := h.owns i hi
  obtain ⟨m, y, hm, hy, -, -, hsame', -⟩ := h.owns j hj
  obtain rfl : k = m := Option.some.inj (hk.symm.trans (htag.trans hm))
  obtain rfl := Option.some.inj (hx.symm.trans hy)
  exact hsame.seq.symm.trans hsame'.seq

/-- The tags of completing producers are broadcast, those of the others are not (rules R159, R160). -/
theorem WakeupAmong.execute (h : WakeupAmong s s.unfinished) (hflight : InFlight s) (hwb : s.wb = [])
    (hroom : s.completing.length ≤ 5 * s.cfg.width) : WakeupAmong s.execute s.execute.unfinished := by
  have hroom' : s.wb.length + s.completing.length ≤ 5 * s.cfg.width := by rw [hwb, List.length_nil, Nat.zero_add]; exact hroom
  obtain ⟨-, hdone⟩ := State.execute_of_enough_room hroom'
  rw [hwb, List.nil_append] at hdone
  have hsource {i : InsRec} (hi : i ∈ s.execute.unfinished) := State.mem_execute_unfinished h.exl hroom' hi
  have hrob : s.execute.rob.map RobSlot.claim = s.rob.map RobSlot.claim := by rw [s.execute_rob]
  -- the completed records are those in WB, so a tag broadcast is one of theirs
  have hcompleted {tag : Option Nat} (htag : tag ∈ s.completing.map fun e => e.ins.dstTag) :
      ∃ p ∈ s.execute.wb, p.dstTag = tag := by
    obtain ⟨e, he, rfl⟩ := List.mem_map.mp htag
    exact ⟨e.finish s.cycle, hdone ▸ List.mem_map_of_mem he, rfl⟩
  have hwaiting {i : InsRec} (hi : i ∈ s.execute.unfinished) : i.dstTag ∉ s.completing.map fun e => e.ins.dstTag := by
    intro htag
    obtain ⟨p, hp, hpt⟩ := hcompleted htag
    exact hflight.execute.seq_ne hi hp (hflight.execute.seq_eq_of_dstTag (mem_travelling.mpr (.inl hi))
      (mem_travelling.mpr (.inr hp)) hpt.symm)
  have hremains {p : InsRec} {k : Nat} (hp : p ∈ s.unfinished) (hk : p.dstTag = some k)
      (hnot : some k ∉ s.completing.map fun e => e.ins.dstTag) : ∃ q ∈ s.execute.unfinished, p.core = q.core := by
    obtain ⟨q, hq, hcore⟩ := exists_of_cores s.execute_cores.symm (mem_travelling.mpr (.inl hp))
    rcases mem_travelling.mp hq with hq | hq
    · exact ⟨q, hq, hcore⟩
    · rw [hdone] at hq
      obtain ⟨e, he, rfl⟩ := List.mem_map.mp hq
      have htag : e.ins.dstTag = some k := (InsRec.core_eq_iff.mp hcore).2.symm.trans hk
      exact absurd (htag ▸ List.mem_map_of_mem (f := fun e : ExlEntry => e.ins.dstTag) he) hnot
  -- a record that still holds a tag has held it, and the tag was not broadcast
  have hheld {i : InsRec} {r : ArfIndex} {k : Nat} (hk : HoldsTag (i.wakeAll (s.completing.map fun e => e.ins.dstTag)) r k) :
      HoldsTag i r k ∧ some k ∉ s.completing.map fun e => e.ins.dstTag := by
    rcases hk with ⟨hs, ht⟩ | ⟨hs, ht⟩
    · obtain ⟨ht, hnot⟩ := clearTag_eq_some.mp ht
      exact ⟨.inl ⟨hs, ht⟩, hnot⟩
    · obtain ⟨ht, hnot⟩ := clearTag_eq_some.mp ht
      exact ⟨.inr ⟨hs, ht⟩, hnot⟩
  have hwait {i : InsRec} {r : ArfIndex} {k : Nat} (hw : WaitsFor i r k s.unfinished)
      (hnot : some k ∉ s.completing.map fun e => e.ins.dstTag) :
      WaitsFor (i.wakeAll (s.completing.map fun e => e.ins.dstTag)) r k s.execute.unfinished :=
    hw.of_cores rfl fun p hp hk => hremains hp hk hnot
  constructor
  case source =>
    intro i hi
    obtain ⟨j, hj, hcore, ht1, ht2⟩ := hsource hi
    obtain ⟨hsame, -⟩ := InsRec.core_eq_iff.mp hcore
    obtain ⟨h1, h2⟩ := h.source j hj
    rw [ht1, ht2, hsame.src1, hsame.src2]
    exact ⟨fun e => by rw [h1 e]; simp [clearTag], fun e => by rw [h2 e]; simp [clearTag]⟩
  case rr =>
    intro i hi r k hk
    rw [s.execute_frame] at hi
    obtain ⟨j, hj, rfl⟩ := List.mem_map.mp hi
    obtain ⟨hk, hnot⟩ := hheld hk
    obtain ⟨hnames, hready⟩ := h.rr j hj r k hk
    refine ⟨hnames.of_claims hrob s.execute_out rfl, hready.imp (fun hr => ?_) fun hw => hwait hw hnot⟩
    rw [s.execute_rob]
    exact hr
  case di =>
    intro i hi r k hk
    rw [s.execute_frame] at hi
    obtain ⟨j, hj, rfl⟩ := List.mem_map.mp hi
    obtain ⟨hk, hnot⟩ := hheld hk
    obtain ⟨hnames, hw⟩ := h.di j hj r k hk
    exact ⟨hnames.of_claims hrob s.execute_out rfl, hwait hw hnot⟩
  case iq =>
    intro x hx hv r k hk
    rw [s.execute_frame] at hx
    obtain ⟨y, hy, rfl⟩ := List.mem_map.mp hx
    rw [IqSlot.wakeAll_valid] at hv
    rw [IqSlot.wakeAll_of_valid hv] at hk ⊢
    obtain ⟨hk, hnot⟩ := hheld hk
    obtain ⟨hnames, hw⟩ := h.iq y hy hv r k hk
    exact ⟨hnames.of_claims hrob s.execute_out rfl, hwait hw hnot⟩
  case exl =>
    intro e he
    rw [(State.execute_of_enough_room hroom').1] at he
    obtain ⟨e₀, he₀, rfl⟩ := List.mem_map.mp (List.mem_filter.mp he).1
    exact h.exl e₀ he₀
  case enforced =>
    intro i hi p hp r hlatest
    obtain ⟨j, hj, hcore, ht1, ht2⟩ := hsource hi
    obtain ⟨q, hq, hcoreq, -, -⟩ := hsource hp
    obtain ⟨hsame, -⟩ := InsRec.core_eq_iff.mp hcore
    obtain ⟨h1, h2⟩ := h.enforced j hj q hq r (hlatest.of_claims hrob hsame.seq hcoreq)
    have htag : p.dstTag = q.dstTag := (InsRec.core_eq_iff.mp hcoreq).2
    have hkept : clearTag (s.completing.map fun e => e.ins.dstTag) q.dstTag = p.dstTag := by
      rw [clearTag, if_neg (htag ▸ hwaiting hp), htag]
    exact ⟨fun e => by rw [ht1, h1 (hsame.src1.symm.trans e), hkept], fun e => by rw [ht2, h2 (hsame.src2.symm.trans e), hkept]⟩

end

end Sys2Proof.Machine
end

section
/-!
PROOFS. Wakeup in the stages that move records (rules R139, R140, R143, R153): tags are kept or snapped.
-/

namespace Sys2Proof.Machine

/-- `i` is the instruction `j` some stages on, and each of its source tags is kept or snapped (rule R140). -/
structure Snapped (rob : List RobSlot) (i j : InsRec) : Prop where
  core : i.core = j.core
  src1 : i.src1Tag = j.src1Tag ∨ i.src1Tag = snapTag rob j.src1Tag
  src2 : i.src2Tag = j.src2Tag ∨ i.src2Tag = snapTag rob j.src2Tag

theorem Snapped.refl (rob : List RobSlot) (i : InsRec) : Snapped rob i i := ⟨rfl, .inl rfl, .inl rfl⟩

theorem Snapped.stamp (rob : List RobSlot) (i : InsRec) (st : Stage) (c : Nat) : Snapped rob (i.stamp st c) i :=
  ⟨rfl, .inl rfl, .inl rfl⟩

section
variable {rob : List RobSlot} {i j : InsRec}

theorem tag_of_snapped {a b : Option Nat} {k : Nat} (h : a = b ∨ a = snapTag rob b) (hk : a = some k) : b = some k := by
  rcases h with rfl | rfl
  · exact hk
  · exact (snapTag_eq_some.mp hk).1

/-- A tag held after was held before. -/
theorem Snapped.holdsTag (h : Snapped rob i j) {r : ArfIndex} {k : Nat} (hk : HoldsTag i r k) : HoldsTag j r k := by
  obtain ⟨hsame, -⟩ := InsRec.core_eq_iff.mp h.core
  rcases hk with ⟨hs, ht⟩ | ⟨hs, ht⟩
  · exact .inl ⟨hsame.src1.symm.trans hs, tag_of_snapped h.src1 ht⟩
  · exact .inr ⟨hsame.src2.symm.trans hs, tag_of_snapped h.src2 ht⟩

/-- The tag of a slot that is not ready stays. -/
theorem tag_kept {a b : Option Nat} {k : Nat} (h : a = b ∨ a = snapTag rob b) (hb : b = some k) (hk : robReady rob k = false) :
    a = some k := by
  rcases h with rfl | rfl
  · exact hb
  · exact snapTag_eq_some.mpr ⟨hb, hk⟩

theorem tag_none {a b : Option Nat} (h : a = b ∨ a = snapTag rob b) (hb : b = none) : a = none := by
  rcases h with rfl | rfl
  · exact hb
  · rw [hb]
    rfl

end

section
variable {s t : State}

/-- A stage that moves records and leaves the ROB and OUT alone: where the records of each place come from. -/
structure Moves (s t : State) : Prop where
  rob : t.rob = s.rob
  out : t.out = s.out
  cores : (t.unfinished.map InsRec.core).Perm (s.unfinished.map InsRec.core)
  rr : ∀ i ∈ t.rr, ∃ j ∈ s.rr, Snapped s.rob i j
  di : ∀ i ∈ t.di, (∃ j ∈ s.di, Snapped s.rob i j) ∨
    ∃ j ∈ s.rr, i.core = j.core ∧ i.src1Tag = snapTag s.rob j.src1Tag ∧ i.src2Tag = snapTag s.rob j.src2Tag
  iq : ∀ x ∈ t.iq, x.valid = true → (∃ y ∈ s.iq, y.valid = true ∧ Snapped s.rob x.ins y.ins) ∨ ∃ j ∈ s.di, Snapped s.rob x.ins j
  exl : ∀ e ∈ t.exl, (∃ f ∈ s.exl, Snapped s.rob e.ins f.ins) ∨
    ∃ y ∈ s.iq, y.selectable = true ∧ Snapped s.rob e.ins y.ins

theorem Moves.source (h : Moves s t) {i : InsRec} (hi : i ∈ t.unfinished) : ∃ j ∈ s.unfinished, Snapped s.rob i j := by
  rcases mem_unfinished.mp hi with hi | hi | ⟨x, hx, hv, rfl⟩ | ⟨e, he, rfl⟩
  · obtain ⟨j, hj, hsnap⟩ := h.rr i hi
    exact ⟨j, mem_unfinished_of_mem_rr hj, hsnap⟩
  · rcases h.di i hi with ⟨j, hj, hsnap⟩ | ⟨j, hj, hcore, h1, h2⟩
    · exact ⟨j, mem_unfinished_of_mem_di hj, hsnap⟩
    · exact ⟨j, mem_unfinished_of_mem_rr hj, hcore, .inr h1, .inr h2⟩
  · rcases h.iq x hx hv with ⟨y, hy, hvy, hsnap⟩ | ⟨j, hj, hsnap⟩
    · exact ⟨y.ins, mem_unfinished_of_mem_iq hy hvy, hsnap⟩
    · exact ⟨j, mem_unfinished_of_mem_di hj, hsnap⟩
  · rcases h.exl e he with ⟨f, hf, hsnap⟩ | ⟨y, hy, hsel, hsnap⟩
    · exact ⟨f.ins, mem_unfinished_of_mem_exl hf, hsnap⟩
    · exact ⟨y.ins, mem_unfinished_of_mem_iq hy (y.selectable_iff.mp hsel).1, hsnap⟩

/-- Such a stage keeps the tags and the producers they name: what is snapped away named a slot that is ready, which no unfinished
record owns. -/
theorem WakeupAmong.moves (h : WakeupAmong s s.unfinished) (hflight : InFlight s) (hmove : Moves s t) :
    WakeupAmong t t.unfinished := by
  have hrob : t.rob.map RobSlot.claim = s.rob.map RobSlot.claim := by rw [hmove.rob]
  have hseq {i j : InsRec} (hcore : i.core = j.core) : i.seq = j.seq := (InsRec.core_eq_iff.mp hcore).1.seq
  have hnames {i j : InsRec} {r : ArfIndex} {k : Nat} (hcore : i.core = j.core) (hn : NamesProducer s j r k) : NamesProducer t i r k :=
    hn.of_claims hrob hmove.out (hseq hcore)
  have hwait {i j : InsRec} {r : ArfIndex} {k : Nat} (hcore : i.core = j.core) (hw : WaitsFor j r k s.unfinished) :
      WaitsFor i r k t.unfinished :=
    hw.of_cores (hseq hcore) fun p hp _ => exists_of_cores hmove.cores.symm hp
  constructor
  case source =>
    intro i hi
    obtain ⟨j, hj, hsnap⟩ := hmove.source hi
    obtain ⟨hsame, -⟩ := InsRec.core_eq_iff.mp hsnap.core
    obtain ⟨h1, h2⟩ := h.source j hj
    exact ⟨fun e => tag_none hsnap.src1 (h1 (hsame.src1.symm.trans e)), fun e => tag_none hsnap.src2 (h2 (hsame.src2.symm.trans e))⟩
  case rr =>
    intro i hi r k hk
    obtain ⟨j, hj, hsnap⟩ := hmove.rr i hi
    obtain ⟨hn, hr⟩ := h.rr j hj r k (hsnap.holdsTag hk)
    exact ⟨hnames hsnap.core hn, hr.imp (fun hr => by rw [hmove.rob]; exact hr) (hwait hsnap.core)⟩
  case di =>
    intro i hi r k hk
    rcases hmove.di i hi with ⟨j, hj, hsnap⟩ | ⟨j, hj, hcore, h1, h2⟩
    · obtain ⟨hn, hw⟩ := h.di j hj r k (hsnap.holdsTag hk)
      exact ⟨hnames hsnap.core hn, hwait hsnap.core hw⟩
    · have hsnap : Snapped s.rob i j := ⟨hcore, .inr h1, .inr h2⟩
      obtain ⟨hn, hr⟩ := h.rr j hj r k (hsnap.holdsTag hk)
      have hnot : robReady s.rob k = false := by
        rcases hk with ⟨-, ht⟩ | ⟨-, ht⟩
        · exact (snapTag_eq_some.mp (h1.symm.trans ht)).2
        · exact (snapTag_eq_some.mp (h2.symm.trans ht)).2
      exact ⟨hnames hcore hn, hwait hcore (hr.resolve_left (by simp [hnot]))⟩
  case iq =>
    intro x hx hv r k hk
    rcases hmove.iq x hx hv with ⟨y, hy, hvy, hsnap⟩ | ⟨j, hj, hsnap⟩
    · obtain ⟨hn, hw⟩ := h.iq y hy hvy r k (hsnap.holdsTag hk)
      exact ⟨hnames hsnap.core hn, hwait hsnap.core hw⟩
    · obtain ⟨hn, hw⟩ := h.di j hj r k (hsnap.holdsTag hk)
      exact ⟨hnames hsnap.core hn, hwait hsnap.core hw⟩
  case exl =>
    intro e he
    rcases hmove.exl e he with ⟨f, hf, hsnap⟩ | ⟨y, hy, hsel, hsnap⟩
    · obtain ⟨h1, h2⟩ := h.exl f hf
      exact ⟨tag_none hsnap.src1 h1, tag_none hsnap.src2 h2⟩
    · obtain ⟨-, h1, h2⟩ := y.selectable_iff.mp hsel
      exact ⟨tag_none hsnap.src1 h1, tag_none hsnap.src2 h2⟩
  case enforced =>
    intro i hi p hp r hlatest
    obtain ⟨j, hj, hsnap⟩ := hmove.source hi
    obtain ⟨q, hq, hsnapq⟩ := hmove.source hp
    obtain ⟨hsame, -⟩ := InsRec.core_eq_iff.mp hsnap.core
    obtain ⟨h1, h2⟩ := h.enforced j hj q hq r (hlatest.of_claims hrob (hseq hsnap.core) hsnapq.core)
    obtain ⟨k, -, hk, -⟩ := hflight.owns_of_unfinished hq
    have hnot := (hflight.owns_of_unfinished hq).not_ready hk
    have htag : p.dstTag = some k := (InsRec.core_eq_iff.mp hsnapq.core).2.trans hk
    rw [htag]
    exact ⟨fun e => tag_kept hsnap.src1 ((h1 (hsame.src1.symm.trans e)).trans hk) hnot,
      fun e => tag_kept hsnap.src2 ((h2 (hsame.src2.symm.trans e)).trans hk) hnot⟩

/-! Issue -/

theorem Selections.mem_selectable {c n : Nat} {q : List IqSlot} {slots : List Nat} {l : List ExlEntry}
    (h : Selections c n q slots l) {e : ExlEntry} (he : e ∈ l) : ∃ x ∈ q, x.selectable = true ∧ e = x.issued c := by
  obtain ⟨m, hm, rfl⟩ := List.mem_iff_getElem.mp he
  have hslot : slots[m]? = some (slots[m]'(h.length_eq ▸ hm)) := List.getElem?_eq_getElem _
  obtain ⟨x, hx, hsel, hl, -⟩ := h.taken hslot
  rw [List.getElem?_eq_getElem hm, Option.some.injEq] at hl
  exact ⟨x, List.mem_of_getElem? hx, hsel, hl⟩

theorem mem_freeAll {q : List IqSlot} {slots : List Nat} {x : IqSlot} (hx : x ∈ freeAll q slots) (hv : x.valid = true) :
    ∃ y ∈ q, y.valid = true ∧ x.ins = y.ins := by
  obtain ⟨k, hk⟩ := List.mem_iff_getElem?.mp hx
  rw [freeAll_getElem?] at hk
  obtain ⟨y, hy, rfl⟩ := Option.map_eq_some_iff.mp hk
  exact ⟨y, List.mem_of_getElem? hy, (Bool.and_eq_true_iff.mp hv).1, rfl⟩

theorem IqSlot.stampIssue_snapped (x : IqSlot) (rob : List RobSlot) (c : Nat) : Snapped rob (x.stampIssue c).ins x.ins := by
  rw [x.stampIssue_ins]
  split
  · exact .stamp ..
  · exact .refl ..

theorem State.issue_moves (s : State) : Moves s s.issue := by
  refine ⟨s.issue_rob, s.issue_out, s.issue_cores, fun i hi => ⟨i, s.issue_rr ▸ hi, .refl ..⟩,
    fun i hi => .inl ⟨i, s.issue_di ▸ hi, .refl ..⟩, fun x hx hv => .inl ?_, fun e he => ?_⟩
  all_goals
    unfold State.issue at *
    split at *
  · exact ⟨x, hx, hv, .refl ..⟩
  · obtain ⟨slots, l, -, hloop⟩ :=
      State.issueLoop_selections { s with iq := s.iq.map fun (x : IqSlot) => x.stampIssue s.cycle } s.cfg.width
    rw [hloop] at hx
    obtain ⟨y, hy, hvy, hins⟩ := mem_freeAll hx hv
    obtain ⟨z, hz, rfl⟩ := List.mem_map.mp hy
    rw [z.stampIssue_valid] at hvy
    exact ⟨z, hz, hvy, hins ▸ z.stampIssue_snapped ..⟩
  · exact .inl ⟨e, he, .refl ..⟩
  · obtain ⟨slots, l, hsel, hloop⟩ :=
      State.issueLoop_selections { s with iq := s.iq.map fun (x : IqSlot) => x.stampIssue s.cycle } s.cfg.width
    rw [hloop] at he
    rcases List.mem_append.mp he with he | he
    · exact .inl ⟨e, he, .refl ..⟩
    · obtain ⟨y, hy, hs, rfl⟩ := hsel.mem_selectable he
      obtain ⟨z, hz, rfl⟩ := List.mem_map.mp hy
      obtain ⟨hcore, h1, h2⟩ := z.stampIssue_snapped s.rob s.cycle
      exact .inr ⟨z, hz, by simpa using hs, hcore, h1, h2⟩

/-! Dispatch -/

theorem State.mem_dispatchLoop (s : State) (b : List InsRec) :
    (∀ i ∈ (s.dispatchLoop b).di, i ∈ b) ∧
      ∀ x ∈ (s.dispatchLoop b).iq, x ∈ s.iq ∨ ∃ i ∈ b, x = { valid := true, ins := i.dispatched s.rob s.cycle } := by
  induction b generalizing s with
  | nil => exact ⟨fun i hi => hi, fun x hx => .inl hx⟩
  | cons i b ih =>
    simp only [State.dispatchLoop]
    split
    · exact ⟨fun j hj => hj, fun x hx => .inl hx⟩
    · obtain ⟨hdi, hiq⟩ := ih { s with iq := s.iq.set _ { valid := true, ins := i.dispatched s.rob s.cycle } }
      refine ⟨fun j hj => List.mem_cons_of_mem _ (hdi j hj), fun x hx => ?_⟩
      rcases hiq x hx with hx | ⟨j, hj, rfl⟩
      · rcases List.mem_or_eq_of_mem_set hx with hx | rfl
        · exact .inl hx
        · exact .inr ⟨i, List.mem_cons_self .., rfl⟩
      · exact .inr ⟨j, List.mem_cons_of_mem _ hj, rfl⟩

theorem State.dispatch_moves (s : State) : Moves s s.dispatch := by
  have hstamped {i : InsRec} (hi : i ∈ stampAll s.di .di s.cycle) : ∃ j ∈ s.di, i = j.stamp .di s.cycle := by
    obtain ⟨j, hj, rfl⟩ := List.mem_map.mp hi
    exact ⟨j, hj, rfl⟩
  obtain ⟨hdi, hiq⟩ := s.mem_dispatchLoop (stampAll s.di .di s.cycle)
  refine ⟨s.dispatch_rob, s.dispatch_out, s.dispatch_cores, fun i hi => ⟨i, s.dispatch_rr ▸ hi, .refl ..⟩, fun i hi => .inl ?_,
    fun x hx hv => ?_, fun e he => .inl ⟨e, s.dispatch_exl ▸ he, .refl ..⟩⟩
  all_goals
    unfold State.dispatch at *
    split at *
  · obtain ⟨j, hj, rfl⟩ := hstamped (hdi i hi)
    exact ⟨j, hj, .stamp ..⟩
  · obtain ⟨j, hj, rfl⟩ := hstamped hi
    exact ⟨j, hj, .stamp ..⟩
  · rcases hiq x hx with hx | ⟨i, hi, rfl⟩
    · exact .inl ⟨x, hx, hv, .refl ..⟩
    · obtain ⟨j, hj, rfl⟩ := hstamped hi
      exact .inr ⟨j, hj, rfl, .inr rfl, .inr rfl⟩
  · exact .inl ⟨x, hx, hv, .refl ..⟩

/-! Register-Read -/

theorem State.regRead_moves (s : State) : Moves s s.regRead := by
  refine ⟨s.regRead_rob, s.regRead_out, s.regRead_cores, fun i hi => ?_, fun i hi => ?_,
    fun x hx hv => .inl ⟨x, s.regRead_iq ▸ hx, hv, .refl ..⟩, fun e he => .inl ⟨e, s.regRead_exl ▸ he, .refl ..⟩⟩
  all_goals rw [s.regRead_eq] at hi
  · obtain ⟨j, hj, rfl⟩ := List.mem_map.mp (List.mem_of_mem_drop hi)
    exact ⟨j, hj, .stamp ..⟩
  · rcases List.mem_append.mp hi with hi | hi
    · exact .inl ⟨i, hi, .refl ..⟩
    · obtain ⟨m, hm, rfl⟩ := List.mem_map.mp hi
      obtain ⟨j, hj, rfl⟩ := List.mem_map.mp (List.mem_of_mem_take hm)
      exact .inr ⟨j, hj, rfl, rfl, rfl⟩

end

end Sys2Proof.Machine
end

section
/-!
PROOFS. Wakeup in Rename (rules R132 to R134, R246), the whole step, and O59.
-/

namespace Sys2Proof.Machine

/-- What one rename keeps beside sizes and program order: the slots of the records in flight, the RMT, the tags, and, as long as a record
may be renamed, that the tags of RR name occupied slots: then no slot is allocated that a record in RR names (rule R237). -/
structure RenameInv (s : State) : Prop where
  flight : InFlight s
  rmt : RmtSound s
  wakeup : WakeupAmong s s.travelling
  named : s.rn = [] ∨ s.cfg.width ≤ s.rr.length ∨
    ∀ j ∈ s.rr, ∀ r t, HoldsTag j r t → ∃ x, s.rob[t]? = some x ∧ x.valid = true

section
variable {s : State} {n : Nat} {i : InsRec} {b : List InsRec}

theorem State.mem_renameHead_unfinished {j : InsRec} :
    j ∈ (s.renameHead i b).unfinished ↔ j = i.renamed s.rmt s.tail s.cycle ∨ j ∈ s.unfinished := by
  simp only [mem_unfinished, State.renameHead, State.renameOne_rr, State.renameOne_di, State.renameOne_iq, State.renameOne_exl,
    List.mem_append, List.mem_singleton]
  exact or_assoc.trans or_left_comm

theorem State.mem_renameHead_travelling {j : InsRec} (hj : j ∈ s.travelling) : j ∈ (s.renameHead i b).travelling := by
  rcases mem_travelling.mp hj with hj | hj
  · exact mem_travelling.mpr (.inl (State.mem_renameHead_unfinished.mpr (.inr hj)))
  · exact mem_travelling.mpr (.inr hj)

/-- The tag of the renamed record is that of the youngest producer in the ROB (rules R33, R133). -/
theorem RenameReady.tag_of_renamed (hflight : InFlight s) (hready : RenameReady s n i b) :
    (i.renamed s.rmt s.tail s.cycle).src1Tag = sourceTag s.rmt i.src1 ∧
      (i.renamed s.rmt s.tail s.cycle).src2Tag = sourceTag s.rmt i.src2 := by
  obtain ⟨h1, h2, -⟩ := hflight.front i (List.mem_append_left _ (by rw [hready.rn]; exact List.mem_cons_self ..))
  exact ⟨InsRec.renamed_src1Tag h1 .., InsRec.renamed_src2Tag h2 ..⟩

theorem sourceTag_of_holdsTag {j : InsRec} {rmt : Vector RmtEntry numArf} {r : ArfIndex} {k : Nat}
    (h1 : j.src1Tag = sourceTag rmt j.src1) (h2 : j.src2Tag = sourceTag rmt j.src2) (hk : HoldsTag j r k) :
    rmt[r].valid = true ∧ rmt[r].robTag = k := by
  have htag : sourceTag rmt (some r) = some k := by
    rcases hk with ⟨hs, ht⟩ | ⟨hs, ht⟩
    · rw [← hs, ← h1, ht]
    · rw [← hs, ← h2, ht]
  obtain ⟨r', hr, hv, hk⟩ := sourceTag_eq_some.mp htag
  obtain rfl := Option.some.inj hr
  exact ⟨hv, hk⟩

/-- An occupied slot is the same after a rename. -/
theorem RenameReady.rob_kept (hready : RenameReady s n i b) {k : Nat} {x : RobSlot} (hx : s.rob[k]? = some x) (hv : x.valid = true) :
    (s.renameHead i b).rob[k]? = some x := by
  rw [hready.rob_get, if_neg (hready.ne_tail hx hv)]
  exact hx

theorem RenameReady.mem_rob (hready : RenameReady s n i b) {y : RobSlot} (hy : y ∈ (s.renameHead i b).rob) :
    y = { valid := true, ready := false, ins := i, dstArf := i.dst } ∨ y ∈ s.rob := by
  obtain ⟨m, hm⟩ := List.mem_iff_getElem?.mp hy
  rw [hready.rob_get] at hm
  split at hm
  next => exact .inl (Option.some.inj hm).symm
  next => exact .inr (List.mem_of_getElem? hm)

/-- The allocated slot is younger than every record in flight, so the producers of those stay the same. -/
theorem RenameReady.namesProducer_kept (hready : RenameReady s n i b) {j : InsRec} {r : ArfIndex} {k : Nat} (hj : j.seq < i.seq)
    (hk : NamesProducer s j r k) (hslot : ∃ x, s.rob[k]? = some x ∧ x.valid = true) : NamesProducer (s.renameHead i b) j r k := by
  obtain ⟨x, hx, hdst, hlt, hlatest, hretired⟩ := hk
  obtain ⟨y, hy, hv⟩ := hslot
  obtain rfl := Option.some.inj (hx.symm.trans hy)
  refine ⟨x, hready.rob_kept hx hv, hdst, hlt, fun z hz hvz hdz hzj => ?_, hretired⟩
  rcases hready.mem_rob hz with rfl | hz
  · exact absurd hzj (Nat.lt_asymm hj)
  · exact hlatest z hz hvz hdz hzj

/-- The tag of the renamed record names its producer, which is ready or on its way to Writeback. -/
theorem RenameInv.names_of_renamed (h : RenameInv s) (hready : RenameReady s n i b) {r : ArfIndex} {k : Nat}
    (hv : s.rmt[r].valid = true) (hk : s.rmt[r].robTag = k) :
    (∃ x, s.rob[k]? = some x ∧ x.valid = true) ∧ NamesProducer (s.renameHead i b) (i.renamed s.rmt s.tail s.cycle) r k ∧
      (robReady s.rob k = true ∨ WaitsFor (i.renamed s.rmt s.tail s.cycle) r k s.travelling) := by
  obtain ⟨x, hx, hvx, hdst, hyoung⟩ := h.rmt.names r hv
  rw [hk] at hx
  have hlt := hready.younger hx hvx
  refine ⟨⟨x, hx, hvx⟩, ⟨x, hready.rob_kept hx hvx, hdst, hlt, fun y hy hvy hdy hyj => ?_, fun o ho _ => ?_⟩, ?_⟩
  · rcases hready.mem_rob hy with rfl | hy
    · exact absurd hyj (Nat.lt_irrefl _)
    · exact hyoung y hy hvy hdy
  · exact (hready.ordered.out_lt hready.sized.rob ho hx hvx).le
  · cases hr : x.ready with
    | true => exact .inl (robReady_eq_true.mpr ⟨x, hx, hr⟩)
    | false =>
      obtain ⟨p, hp, htag⟩ := h.flight.present k x hx hvx hr
      obtain ⟨m, y, hm, hy, -, -, hsame, -⟩ := h.flight.owns p hp
      obtain rfl : m = k := Option.some.inj (hm.symm.trans htag)
      obtain rfl := Option.some.inj (hx.symm.trans hy)
      refine .inr ⟨p, hp, htag, ?_, hsame.seq ▸ hlt⟩
      rw [← hsame.dst, ← h.flight.slots x (List.mem_of_getElem? hx) hvx, hdst]

/-- The youngest producer of a source register of the renamed record is the one the RMT names, if it has not completed (rule R251). -/
theorem RenameInv.sourceTag_of_latest (h : RenameInv s) (hready : RenameReady s n i b) {p : InsRec} {r : ArfIndex}
    (hp : p ∈ s.unfinished) (hlatest : LatestProducer (s.renameHead i b) (i.renamed s.rmt s.tail s.cycle) p r) :
    sourceTag s.rmt (some r) = p.dstTag := by
  obtain ⟨hdst, -, hyoungest⟩ := hlatest
  obtain ⟨k, x, hk, hx, hv, -, hsame, -⟩ := h.flight.owns_of_unfinished hp
  have hmem := List.mem_of_getElem? hx
  have hdx : x.dstArf = some r := by rw [h.flight.slots x hmem hv, hsame.dst, hdst]
  have hr := h.rmt.mapped r x hmem hv hdx
  obtain ⟨z, hz, hvz, hdz, hyoung⟩ := h.rmt.names r hr
  have hxz := hyoung x hmem hv hdx
  have hzp := hyoungest z (List.mem_of_getElem? (hready.rob_kept hz hvz)) hvz hdz (hready.younger hz hvz)
  have hseq : z.ins.seq = x.ins.seq := Nat.le_antisymm (hsame.seq ▸ hzp) hxz
  have hindex : s.rmt[r].robTag = k := hready.ordered.unique hready.sized.rob _ _ z x hz hx hvz hv hseq
  rw [hk, ← hindex]
  exact sourceTag_eq_some.mpr ⟨r, rfl, hr, rfl⟩

theorem RenameInv.renameHead (h : RenameInv s) (hready : RenameReady s n i b) : RenameInv (s.renameHead i b) := by
  have hnamed : ∀ j ∈ s.rr, ∀ r t, HoldsTag j r t → ∃ x, s.rob[t]? = some x ∧ x.valid = true := by
    rcases h.named with hnil | hfull | hnamed
    · simp [hready.rn] at hnil
    · exact absurd hready.room (by omega)
    · exact hnamed
  obtain ⟨ht1, ht2⟩ := hready.tag_of_renamed h.flight
  have hold {j : InsRec} (hj : j ∈ s.unfinished) : j.seq < i.seq := by
    obtain ⟨k, x, -, hx, hv, -, hsame, -⟩ := h.flight.owns_of_unfinished hj
    exact hsame.seq ▸ hready.younger hx hv
  have hproducer {j : InsRec} {r : ArfIndex} {k : Nat} (hw : WaitsFor j r k s.unfinished) :
      ∃ x, s.rob[k]? = some x ∧ x.valid = true := by
    obtain ⟨p, hp, hk, -⟩ := hw
    obtain ⟨m, x, hm, hx, hv, -⟩ := h.flight.owns_of_unfinished hp
    obtain rfl : m = k := Option.some.inj (hm.symm.trans hk)
    exact ⟨x, hx, hv⟩
  have hwaits {j : InsRec} {r : ArfIndex} {k : Nat} (hw : WaitsFor j r k s.unfinished) :
      WaitsFor j r k (s.renameHead i b).unfinished :=
    hw.mono fun p hp => State.mem_renameHead_unfinished.mpr (.inr hp)
  have hreadyBit {k : Nat} (hslot : ∃ x, s.rob[k]? = some x ∧ x.valid = true) :
      robReady (s.renameHead i b).rob k = robReady s.rob k := by
    obtain ⟨x, hx, hv⟩ := hslot
    rw [robReady_eq, robReady_eq, hready.rob_kept hx hv, hx]
  have htag {r : ArfIndex} {k : Nat} (hk : HoldsTag (i.renamed s.rmt s.tail s.cycle) r k) :=
    sourceTag_of_holdsTag (j := i.renamed s.rmt s.tail s.cycle) ht1 ht2 hk
  have hrr {j : InsRec} (hj : j ∈ (s.renameHead i b).rr) : j ∈ s.rr ∨ j = i.renamed s.rmt s.tail s.cycle := by
    rcases List.mem_append.mp hj with hj | hj
    · exact .inl hj
    · exact .inr (List.mem_singleton.mp hj)
  refine ⟨h.flight.renameHead hready, h.rmt.renameHead hready, ?_, .inr (.inr fun j hj r k hk => ?_)⟩
  case refine_2 =>
    have hslot : ∃ x, s.rob[k]? = some x ∧ x.valid = true := by
      rcases hrr hj with hj | rfl
      · exact hnamed j hj r k hk
      · obtain ⟨hv, hr⟩ := htag hk
        exact (h.names_of_renamed hready hv hr).1
    obtain ⟨x, hx, hv⟩ := hslot
    exact ⟨x, hready.rob_kept hx hv, hv⟩
  constructor
  case source =>
    intro j hj
    rcases State.mem_renameHead_unfinished.mp hj with rfl | hj
    · rw [ht1, ht2]
      exact ⟨fun e => by rw [show i.src1 = none from e]; rfl, fun e => by rw [show i.src2 = none from e]; rfl⟩
    · exact h.wakeup.source j hj
  case rr =>
    intro j hj r k hk
    rcases hrr hj with hj | rfl
    · have hslot := hnamed j hj r k hk
      obtain ⟨hn, hw⟩ := h.wakeup.rr j hj r k hk
      refine ⟨hready.namesProducer_kept (hold (mem_unfinished_of_mem_rr hj)) hn hslot, hw.imp (fun hr => ?_) fun hw => ?_⟩
      · exact (hreadyBit hslot).trans hr
      · exact hw.mono fun _ => State.mem_renameHead_travelling
    · obtain ⟨hv, hr⟩ := htag hk
      obtain ⟨hslot, hn, hw⟩ := h.names_of_renamed hready hv hr
      exact ⟨hn, hw.imp (fun hr => (hreadyBit hslot).trans hr) fun hw => hw.mono fun _ => State.mem_renameHead_travelling⟩
  case di =>
    intro j hj r k hk
    obtain ⟨hn, hw⟩ := h.wakeup.di j hj r k hk
    exact ⟨hready.namesProducer_kept (hold (mem_unfinished_of_mem_di hj)) hn (hproducer hw), hwaits hw⟩
  case iq =>
    intro x hx hv r k hk
    obtain ⟨hn, hw⟩ := h.wakeup.iq x hx hv r k hk
    exact ⟨hready.namesProducer_kept (hold (mem_unfinished_of_mem_iq hx hv)) hn (hproducer hw), hwaits hw⟩
  case exl => exact h.wakeup.exl
  case enforced =>
    intro j hj p hp r hlatest
    have hpj : p.seq < j.seq := hlatest.2.1
    rcases State.mem_renameHead_unfinished.mp hp with rfl | hp
    · rcases State.mem_renameHead_unfinished.mp hj with rfl | hj
      · exact absurd hpj (Nat.lt_irrefl _)
      · exact absurd hpj (Nat.lt_asymm (hold hj))
    · rcases State.mem_renameHead_unfinished.mp hj with rfl | hj
      · have hsource := h.sourceTag_of_latest hready hp hlatest
        rw [ht1, ht2]
        exact ⟨fun e => by rw [show i.src1 = some r from e, hsource], fun e => by rw [show i.src2 = some r from e, hsource]⟩
      · obtain ⟨hdst, -, hyoungest⟩ := hlatest
        refine h.wakeup.enforced j hj p hp r ⟨hdst, hpj, fun y hy hvy hdy hyj => ?_⟩
        obtain ⟨m, hm⟩ := List.mem_iff_getElem?.mp hy
        exact hyoungest y (List.mem_of_getElem? (hready.rob_kept hm hvy)) hvy hdy hyj

/-- Where a record may be renamed RR is empty: its group is full, or nothing follows it, or it has moved (rule R237). -/
theorem GroupAligned.rename_named (h : GroupAligned s) : s.rn = [] ∨ s.cfg.width ≤ s.rr.length ∨ s.rr = [] := by
  rcases h.rr.1 with hnil | hfull | ⟨-, -, hnil⟩
  · exact .inr (.inr hnil)
  · exact .inr (.inl hfull.ge)
  · exact .inl (List.append_eq_nil_iff.mp hnil).1

theorem WakeupAmong.rename (h : WakeupAmong s s.travelling) (hsized : Sized s) (hpo : ProgramOrder s) (hrmt : RmtSound s)
    (hflight : InFlight s) (hgroup : GroupAligned s) : WakeupSound s.rename := by
  refine wakeupSound_iff.mpr (rename_induction (P := RenameInv) hsized hpo ⟨?_, hrmt.of_claims rfl rfl, ?_, ?_⟩
    fun _ _ _ _ hready hi => hi.renameHead hready).2.2.wakeup
  · refine hflight.of_cores (.refl _) rfl (NoTags.of_sources hflight.front fun i hi => ?_)
    rcases List.mem_append.mp hi with hi | hi
    · obtain ⟨j, hj, rfl⟩ := List.mem_map.mp hi
      exact ⟨j, List.mem_append_left _ hj, rfl, rfl, rfl⟩
    · exact ⟨i, List.mem_append_right _ hi, rfl, rfl, rfl⟩
  · exact h.of_claims rfl (fun _ hk => hk) rfl rfl rfl rfl rfl
  · rcases hgroup.rename_named with hnil | hfull | hnil
    · exact .inl (by simp [stampAll, hnil])
    · exact .inr (.inl hfull)
    · exact .inr (.inr fun j hj => by simp [hnil] at hj)

/-- Decode, Fetch and the increment of the clock touch nothing the invariant reads. -/
theorem WakeupSound.of_backend_eq {t : State} (h : WakeupSound s) (hrob : t.rob = s.rob) (hout : t.out = s.out) (hrr : t.rr = s.rr)
    (hdi : t.di = s.di) (hiq : t.iq = s.iq) (hexl : t.exl = s.exl) (hwb : t.wb = s.wb) : WakeupSound t := by
  have htravelling : t.travelling = s.travelling := by
    rw [State.travelling, State.travelling, State.unfinished, State.unfinished, hrr, hdi, hiq, hexl, hwb]
  refine wakeupSound_iff.mpr (htravelling ▸ (wakeupSound_iff.mp h).of_claims ?_ ?_ hout hrr hdi hiq hexl)
  · rw [hrob]
  · rw [hrob]
    exact fun _ hk => hk

/-! The step -/

/-- Execute finds room in WB for every completion (rule R239). -/
theorem Timed.completing_le (h : Timed s) : s.retire.writeback.completing.length ≤ 5 * s.retire.writeback.cfg.width := by
  have hlen : s.exl.length ≤ 5 * s.cfg.width := length_le_of_onTime h.exlCount h.exl
  have hle : s.retire.writeback.completing.length ≤ s.retire.writeback.exl.length :=
    (List.length_filter_le ..).trans (List.length_map ..).le
  simp only [State.writeback_exl, State.retire_exl, State.writeback_cfg, State.retire_cfg] at hle ⊢
  omega

theorem WakeupSound.stages (h : WakeupSound s) (hsized : Sized s) (hpo : ProgramOrder s) (hrmt : RmtSound s) (htimed : Timed s)
    (hgroup : GroupAligned s) (hflight : InFlight s) : WakeupSound s.stages := by
  have hwritten := (h.retire hsized hpo hflight).writeback hsized.retire (hpo.retire hsized) (hflight.retire hsized hpo)
  have hflight' := (hflight.retire hsized hpo).writeback hsized.retire (hpo.retire hsized)
  have hexecuted := hwritten.execute hflight' rfl htimed.completing_le
  have hread := ((hexecuted.moves hflight'.execute (State.issue_moves _)).moves hflight'.execute.issue (State.dispatch_moves _)).moves
    hflight'.execute.issue.dispatch (State.regRead_moves _)
  have hrmt' : RmtSound s.retire.writeback.execute.issue.dispatch.regRead :=
    (hrmt.retire hsized hpo).writeback.of_claims (by simp) (by simp)
  have hrenamed := (hread.mono fun i hi => mem_travelling.mpr (.inl hi)).rename
    hsized.retire.writeback.execute.issue.dispatch.regRead (hpo.retire hsized).writeback.execute.issue.dispatch.regRead hrmt'
    hflight'.execute.issue.dispatch.regRead hgroup.retire.writeback.execute.issue.dispatch.regRead
  rw [State.stages]
  exact hrenamed.of_backend_eq (State.decode_rob _) (State.decode_out _) (State.decode_rr _) (State.decode_di _) (State.decode_iq _)
    (State.decode_exl _) (State.decode_wb _)

theorem WakeupSound.fetch {t : State} (h : WakeupSound s) (hfetch : fetch s = .next t) : WakeupSound t := by
  have hframe := fetch_frame hfetch
  apply h.of_backend_eq <;> rw [hframe]

theorem WakeupSound.step {t : State} (h : WakeupSound s) (hsized : Sized s) (hpo : ProgramOrder s) (hrmt : RmtSound s)
    (htimed : Timed s) (hgroup : GroupAligned s) (hflight : InFlight s) (hstep : step s = .next t) : WakeupSound t :=
  step_keeps_of (fun _ => h.stages hsized hpo hrmt htimed hgroup hflight) WakeupSound.fetch
    (fun h => h.of_backend_eq rfl rfl rfl rfl rfl rfl rfl) h hstep

end

/-- Settles O59: Retire keeps the names, Writeback makes ready what it takes, Execute broadcasts what completes, the moves snap only
what is ready, and Rename takes the youngest producer from the RMT. -/
theorem wakeupSoundnessIsKept : Obligations.WakeupSoundnessIsKept :=
  fun _ _ hsized hpo hrmt htimed hgroup hflight h hstep => h.step hsized hpo hrmt htimed hgroup hflight hstep

theorem wakeupSound_start (cfg : Config) (trace : List TraceLine) : WakeupSound (State.start cfg trace) := by
  have hnone : (State.start cfg trace).unfinished = [] := by simp [State.unfinished, State.start, IqSlot.free]
  constructor
  case source => simp [hnone]
  case rr => exact List.forall_mem_nil _
  case di => exact List.forall_mem_nil _
  case iq =>
    intro x hx hv
    obtain rfl := List.eq_of_mem_replicate hx
    cases hv
  case exl => exact List.forall_mem_nil _
  case enforced => simp [hnone]

end Sys2Proof.Machine
end

section
/-!
PROOFS. The invariants together along every run, and what a run that has ended holds: O19, O43, O48, O50, O51, O52.
-/

namespace Sys2Proof.Machine

/-! The invariants together -/

/-- The seven invariants, which a step keeps together (spec file 10, section 7; spec file 70, sections 4 to 6). -/
structure Sound (s : State) : Prop where
  sized : Sized s
  order : ProgramOrder s
  rmt : RmtSound s
  timed : Timed s
  group : GroupAligned s
  flight : InFlight s
  wakeup : WakeupSound s

theorem Sound.step {s t : State} (h : Sound s) (hstep : step s = .next t) : Sound t where
  sized := h.sized.step hstep
  order := h.order.step h.sized hstep
  rmt := h.rmt.step h.sized h.order hstep
  timed := step_keeps_timed h.timed hstep
  group := h.group.step hstep
  flight := h.flight.step h.sized h.order hstep
  wakeup := h.wakeup.step h.sized h.order h.rmt h.timed h.group h.flight hstep

theorem sound_start {cfg : Config} (h : cfg.wellFormed = true) (trace : List TraceLine) : Sound (State.start cfg trace) where
  sized := sized_start h trace
  order := programOrder_start cfg trace
  rmt := rmtSound_start cfg trace
  timed := timed_start cfg trace
  group := groupAligned_start cfg trace
  flight := inFlight_start cfg trace
  wakeup := wakeupSound_start cfg trace

/-- What holds at every start and every step from a sound state keeps, every reachable state has. -/
theorem reachable_induction {P : State → Prop}
    (hstart : ∀ (cfg : Config) (trace : List TraceLine), cfg.wellFormed = true → P (State.start cfg trace))
    (hstep : ∀ {s t : State}, Sound s → P s → step s = .next t → P t) {s : State} (h : Reachable s) : Sound s ∧ P s := by
  obtain ⟨cfg, trace, n, hcfg, hrun⟩ := h
  exact run_induction (P := fun s => Sound s ∧ P s) (fun ⟨hs, hp⟩ hst => ⟨hs.step hst, hstep hs hp hst⟩)
    ⟨sound_start hcfg trace, hstart cfg trace hcfg⟩ hrun

theorem Reachable.sound {s : State} (h : Reachable s) : Sound s :=
  (reachable_induction (P := fun _ => True) (fun _ _ _ => trivial) (fun _ _ _ => trivial) h).1

/-- Settles O43: nothing is in flight at the start. -/
theorem invariantsHoldAtStart : Obligations.InvariantsHoldAtStart := fun _ trace hcfg =>
  have h := sound_start hcfg trace
  ⟨h.order, h.rmt, h.timed, h.group, h.flight, h.wakeup⟩

/-- Settles O51: the wakeup invariant is one of the seven. -/
theorem noWakeupIsLost : Obligations.NoWakeupIsLost := fun _ h => h.sound.wakeup

/-- Settles O50: EXL holds at most `WIDTH` entries per execute stamp, and an entry between two ticks has one of the last four cycles
as its stamp or none (rule R239). -/
theorem executionListIsBounded : Obligations.ExecutionListIsBounded := by
  intro s hs
  have htimed := hs.timed
  have hwidth := ((Config.wellFormed_iff _).mp hs.sound.sized.cfg).2.2
  have hstamps : StampedAtMost s.retire.writeback.cfg.width s.retire.writeback.exl := by
    rw [State.writeback_exl, State.retire_exl, State.writeback_cfg, State.retire_cfg]
    exact htimed.exlCount
  have hentries : ExlOnTime s.retire.writeback.exl s.retire.writeback.cycle := by
    rw [State.writeback_exl, State.retire_exl, State.writeback_cycle, State.retire_cycle]
    exact htimed.exl
  obtain ⟨hdown, -⟩ := State.execute_onTime hentries hstamps rfl
  obtain ⟨-, hwb⟩ := State.execute_of_enough_room (s := s.retire.writeback) (by simpa [State.writeback] using htimed.completing_le)
  have hleft : s.retire.writeback.execute.exl.length ≤ 4 * s.cfg.width := by
    simpa using length_le_of_countedDown hdown.bound hdown.entries
  refine ⟨length_le_of_onTime htimed.exlCount htimed.exl, hleft, ?_, ?_, fun e he => Nat.pos_of_ne_zero (hdown.entries e he).2⟩
  · exact decide_eq_false (by simp only [State.execute_cfg, State.writeback_cfg, State.retire_cfg, Config.exCap]; omega)
  · rw [hwb, List.length_append, List.length_map]
    exact Nat.zero_add _

/-! Slots ever allocated -/

section
variable {s : State}

/-- Every fetched instruction stands in OUT, the ROB, RN or DE (rule R241). -/
theorem Ordered.count {n : Nat} (h : Ordered s n) : s.out.length + n + s.rn.length + s.de.length = s.seqNext := by
  have hlen := congrArg List.length h.seqs
  simpa [State.programSeqs, h.occupied.robSlots_get.1, Nat.add_assoc] using hlen

/-- Where every slot is free none is occupied. -/
theorem Ordered.count_eq_zero {n : Nat} (h : Ordered s n) (hsized : Sized s) (hfree : ∀ x ∈ s.rob, x.valid = false) : n = 0 := by
  obtain ⟨x, hx, hv⟩ := h.occupied.slot hsized.robSize_pos
  rw [hfree x (List.mem_of_getElem? hx)] at hv
  exact Nat.eq_zero_of_not_pos (of_decide_eq_false hv.symm)

/-- `head` has advanced once for each emitted record, and a free slot has its `ready` bit set exactly where it was allocated before:
the instructions allocated so far, those fetched less those in RN and DE, took the slots in turn (rules R31, R178, R179). -/
structure SlotsCounted (s : State) : Prop where
  head : s.head = s.out.length % s.cfg.robSize
  ready : ∀ k x, s.rob[k]? = some x → x.valid = false → (x.ready = true ↔ k + s.rn.length + s.de.length < s.seqNext)

/-- What leaves `head`, OUT, the number of allocated instructions and the bits of the free slots keeps the count. -/
theorem SlotsCounted.of_free {t : State} (h : SlotsCounted s) (hcfg : t.cfg = s.cfg) (hhead : t.head = s.head) (hout : t.out = s.out)
    (hcount : ∀ k, k + t.rn.length + t.de.length < t.seqNext ↔ k + s.rn.length + s.de.length < s.seqNext)
    (hfree : ∀ (k : Nat) (x : RobSlot), t.rob[k]? = some x → x.valid = false →
      ∃ y, s.rob[k]? = some y ∧ y.valid = false ∧ x.ready = y.ready) :
    SlotsCounted t where
  head := by rw [hhead, hout, hcfg, h.head]
  ready k x hx hv := by
    obtain ⟨y, hy, hvy, hready⟩ := hfree k x hx hv
    rw [hready, hcount, h.ready k y hy hvy]

theorem SlotsCounted.of_view {t : State} (h : SlotsCounted s) (hcfg : t.cfg = s.cfg) (hhead : t.head = s.head) (hout : t.out = s.out)
    (hrn : t.rn.length = s.rn.length) (hde : t.de.length = s.de.length) (hseq : t.seqNext = s.seqNext) (hrob : t.rob = s.rob) :
    SlotsCounted t :=
  h.of_free hcfg hhead hout (fun k => by rw [hrn, hde, hseq]) fun k x hx hv => ⟨x, hrob ▸ hx, hv, rfl⟩

/-- Retirement frees an allocated slot and advances `head` (rules R178, R179). -/
theorem SlotsCounted.retireOne {x : RobSlot} (h : SlotsCounted s) (hsized : Sized s) (hpo : ProgramOrder s)
    (hx : s.rob[s.head]? = some x) (hv : x.valid = true) (hr : x.ready = true) : SlotsCounted (s.retireOne x) where
  head := by
    rw [State.retireOne_head, State.retireOne_out, State.retireOne_cfg, robSucc, h.head, List.length_append, List.length_singleton,
      Nat.mod_add_mod]
  ready k y hy hvy := by
    rw [State.retireOne_rob] at hy
    rw [State.retireOne_rn, State.retireOne_de, State.retireOne_seqNext]
    by_cases hk : s.head = k
    · subst hk
      obtain ⟨n, hn⟩ := programOrder_iff.mp hpo
      have hpos := hn.occupied.pos_of_head hsized.rob hx hv
      have hcount := hn.count
      have hhead : s.head ≤ s.out.length := h.head ▸ Nat.mod_le _ _
      rw [List.getElem?_set_self (List.getElem?_eq_some_iff.mp hx).1] at hy
      obtain rfl := Option.some.inj hy
      exact iff_of_true hr (by omega)
    · rw [List.getElem?_set_ne hk] at hy
      exact h.ready k y hy hvy

theorem SlotsCounted.retire (h : SlotsCounted s) (hsized : Sized s) (hpo : ProgramOrder s) : SlotsCounted s.retire := by
  refine (retire_induction hsized hpo (h.of_free rfl rfl rfl (fun _ => .rfl) fun k x hx hv => ?_)
    fun u x hsz ho hu hx hv hr => hu.retireOne hsz ho hx hv hr).2.2
  rw [State.stampedForRetire, List.getElem?_map] at hx
  obtain ⟨y, hy, rfl⟩ := Option.map_eq_some_iff.mp hx
  exact ⟨y, hy, by simpa using hv, y.stampRetire_ready _⟩

theorem SlotsCounted.writeback (h : SlotsCounted s) : SlotsCounted s.writeback := by
  refine h.of_free rfl rfl rfl (fun _ => .rfl) fun k x hx hv => ?_
  have hview := congrArg (fun l : List (Bool × Nat) => l[k]?) (map_view_writebackAll s.cycle (stampAll s.wb .wb s.cycle) s.rob)
  have hx' : (writebackAll s.cycle (stampAll s.wb .wb s.cycle) s.rob)[k]? = some x := hx
  simp only [List.getElem?_map, hx', Option.map_some] at hview
  obtain ⟨y, hy, hxy⟩ := Option.map_eq_some_iff.mp hview.symm
  have hvy : y.valid = false := (congrArg Prod.fst hxy).trans hv
  have hkept := writebackAll_get_other (c := s.cycle) (b := stampAll s.wb .wb s.cycle) hy fun i _ => by simp [RobSlot.holds, hvy]
  exact ⟨y, hy, hvy, congrArg RobSlot.ready (Option.some.inj (hx'.symm.trans hkept))⟩

/-- The slot that Rename allocates is the next in turn (rules R132, R135). -/
theorem SlotsCounted.renameHead {n : Nat} {i : InsRec} {b : List InsRec} (h : SlotsCounted s) (hready : RenameReady s n i b) :
    SlotsCounted (s.renameHead i b) where
  head := h.head
  ready k x hx hv := by
    rw [hready.rob_get] at hx
    split at hx
    · obtain rfl := Option.some.inj hx
      cases hv
    next hk =>
      have hlt : k < s.cfg.robSize := hready.sized.rob ▸ (List.getElem?_eq_some_iff.mp hx).1
      have hcount := hready.ordered.count
      have htail : s.tail = (s.out.length + n) % s.cfg.robSize := by
        rw [hready.ordered.occupied.tail, State.robIndex, h.head, Nat.mod_add_mod]
      have hnext : k ≠ s.out.length + n := fun heq => hk (by rw [htail, ← heq, Nat.mod_eq_of_lt hlt])
      rw [h.ready k x hx hv]
      show _ ↔ k + b.length + s.de.length < s.seqNext
      rw [hready.rn] at hcount ⊢
      simp only [List.length_cons] at hcount ⊢
      omega

theorem SlotsCounted.rename (h : SlotsCounted s) (hsized : Sized s) (hpo : ProgramOrder s) : SlotsCounted s.rename :=
  (rename_induction hsized hpo (h.of_view rfl rfl rfl (stampAll_length ..) rfl rfl rfl)
    fun _ _ _ _ hready h => h.renameHead hready).2.2

theorem SlotsCounted.decode (h : SlotsCounted s) : SlotsCounted s.decode := by
  refine h.of_free rfl rfl rfl (fun k => ?_) fun k x hx hv => ⟨x, hx, hv, rfl⟩
  rw [s.decode_eq]
  simp only [List.length_append, List.length_drop, List.length_map, List.length_take, stampAll_length]
  omega

theorem SlotsCounted.stages (h : SlotsCounted s) (hsized : Sized s) (hpo : ProgramOrder s) : SlotsCounted s.stages := by
  have hwritten := (h.retire hsized hpo).writeback
  have hread : SlotsCounted s.retire.writeback.execute.issue.dispatch.regRead := by
    apply hwritten.of_view <;> simp
  exact (hread.rename hsized.retire.writeback.execute.issue.dispatch.regRead
    (hpo.retire hsized).writeback.execute.issue.dispatch.regRead).decode

theorem SlotsCounted.fetch {t : State} (h : SlotsCounted s) (hfetch : fetch s = .next t) : SlotsCounted t := by
  cases hlatch : s.traceDone with
  | true =>
    rw [fetch_of_traceDone hlatch] at hfetch
    exact Host.Outcome.next.inj hfetch ▸ h
  | false =>
    obtain ⟨l, lines, rest, htakes⟩ := fetch_takes hlatch hfetch
    rw [htakes.result]
    refine h.of_free rfl rfl rfl (fun k => ?_) fun k x hx hv => ⟨x, hx, hv, rfl⟩
    simp only [List.length_append, List.length_map, List.length_zipIdx]
    omega

theorem SlotsCounted.step {t : State} (h : SlotsCounted s) (hsized : Sized s) (hpo : ProgramOrder s) (hstep : step s = .next t) :
    SlotsCounted t :=
  step_keeps_of (fun _ => h.stages hsized hpo) SlotsCounted.fetch (fun h => h.of_view rfl rfl rfl rfl rfl rfl rfl) h hstep

end

theorem slotsCounted_start (cfg : Config) (trace : List TraceLine) : SlotsCounted (State.start cfg trace) where
  head := (Nat.zero_mod _).symm
  ready k x hx _ := by
    obtain rfl := List.eq_of_mem_replicate (List.mem_of_getElem? hx)
    simp [State.start, RobSlot.free]

theorem Reachable.slotsCounted {s : State} (h : Reachable s) : SlotsCounted s :=
  (reachable_induction (fun cfg trace _ => slotsCounted_start cfg trace) (fun hs hp hst => hp.step hs.sized hs.order hst) h).2

/-- Settles O48: OUT is the front of the program order, and `head` has advanced once for each of its records. -/
theorem retirementOrder : Obligations.RetirementOrder := by
  intro s hs
  obtain ⟨n, hn⟩ := programOrder_iff.mp hs.sound.order
  refine ⟨List.ext_getElem? fun k => ?_, hs.slotsCounted.head⟩
  rw [List.getElem?_map]
  by_cases hk : k < s.out.length
  · have ho : s.out[k]? = some s.out[k] := List.getElem?_eq_getElem hk
    rw [ho, List.getElem?_range hk, Option.map_some, hn.out_seq ho]
  · simp [hk]

/-! The end of a run -/

/-- The driver stops where nothing is in flight and the end of the stream is latched (rule R112). -/
theorem State.continues_eq_false_iff (s : State) :
    s.continues = false ↔ s.traceDone = true ∧ s.de = [] ∧ s.rn = [] ∧ s.rr = [] ∧ s.di = [] ∧ s.wb = [] ∧ s.exl = [] ∧
      (∀ x ∈ s.iq, x.valid = false) ∧ ∀ x ∈ s.rob, x.valid = false := by
  simp only [State.continues, State.iqNonEmpty, State.robNonEmpty, Bool.or_eq_false_iff, Bool.not_eq_false', List.isEmpty_iff,
    List.any_eq_false, Bool.not_eq_true]
  tauto

/-- Where every slot is free no instruction is on its way from Rename to Writeback (rule R172). -/
theorem InFlight.travelling_nil {s : State} (h : InFlight s) (hfree : ∀ x ∈ s.rob, x.valid = false) : s.travelling = [] := by
  refine List.eq_nil_iff_forall_not_mem.mpr fun i hi => ?_
  obtain ⟨k, x, -, hx, hv, -⟩ := h.owns i hi
  simp [hfree x (List.mem_of_getElem? hx)] at hv

/-- A sound engine that has emitted everything it fetched, with the end of the stream latched, has stopped (rules R43, R112). -/
theorem Sound.done {s : State} (h : Sound s) (hlatch : s.traceDone = true) (hout : s.out.length = s.seqNext) : s.done = true := by
  obtain ⟨n, hn⟩ := programOrder_iff.mp h.order
  have hcount := hn.count
  have hfree : ∀ x ∈ s.rob, x.valid = false := by
    intro x hx
    obtain ⟨k, hk⟩ := List.mem_iff_getElem?.mp hx
    obtain ⟨j, -, -, hv⟩ := hn.occupied.place h.sized.rob hk
    rw [hv]
    exact decide_eq_false (by omega)
  have hnone := h.flight.travelling_nil hfree
  simp only [State.travelling, State.unfinished, List.append_eq_nil_iff, List.map_eq_nil_iff, List.filter_eq_nil_iff,
    Bool.not_eq_true] at hnone
  obtain ⟨⟨⟨⟨hrr, hdi⟩, hiq⟩, hexl⟩, hwb⟩ := hnone
  have hstop := s.continues_eq_false_iff.mpr ⟨hlatch, List.length_eq_zero_iff.mp (by omega), List.length_eq_zero_iff.mp (by omega),
    hrr, hdi, hwb, hexl, hiq, hfree⟩
  rw [State.done, hstop]
  rfl

/-- Settles O52: a stopped engine has emitted all of the program order; a mapping would name an occupied slot; and the free slots,
which are all, are `ready` where they were allocated. -/
theorem stateAtEndOfRun : Obligations.StateAtEndOfRun := by
  intro s hs hdone
  have hsound := hs.sound
  obtain ⟨hlatch, hde, hrn, -, -, -, -, -, hrob⟩ := s.continues_eq_false_iff.mp (by simpa [State.done] using hdone)
  obtain ⟨n, hn⟩ := programOrder_iff.mp hsound.order
  have hcounted := hs.slotsCounted
  obtain rfl := hn.count_eq_zero hsound.sized hrob
  have hcount : s.out.length = s.seqNext := by simpa [hde, hrn] using hn.count
  refine ⟨hlatch, hcount, hcount ▸ hcounted.head, ?_, fun r => ?_, fun k x hx => ?_⟩
  · rw [hn.occupied.tail, State.robIndex_zero hsound.sized.head]
  · refine Bool.eq_false_iff.mpr fun hv => ?_
    obtain ⟨x, hx, hvx, -⟩ := hsound.rmt.names r hv
    simp [hrob x (List.mem_of_getElem? hx)] at hvx
  · have hv := hrob x (List.mem_of_getElem? hx)
    have hready := hcounted.ready k x hx hv
    rw [hde, hrn] at hready
    exact ⟨hv, hready⟩

/-- Settles O19: the first tick finds the end of the stream; nothing is fetched, so nothing is in flight. -/
theorem emptyTraceTakesOneTick : Obligations.EmptyTraceTakesOneTick := by
  intro cfg hcfg
  obtain ⟨t, hstep, -⟩ := step_of_inDomain (s := State.start cfg []) hcfg (List.forall_mem_nil _)
  have hsound := (sound_start hcfg []).step hstep
  have hgo : (State.start cfg []).continues = true := State.continues_of_open rfl
  have hcycle := step_cycle hstep hgo
  have htick := hstep
  rw [step_eq_tick hcfg hgo] at htick
  obtain ⟨u, hu, ht⟩ := andThen_next.mp htick
  obtain rfl := Host.Outcome.next.inj ht
  obtain ⟨l, lines, rest, htakes⟩ := fetch_takes (by simp [State.start]) hu
  have hlines : lines = [] := (List.append_eq_nil_iff.mp (by simpa [State.start] using htakes.trace.symm)).1
  have hl : l = [] := by simpa [hlines] using htakes.decoded.symm
  have hseq : u.seqNext = 0 := by rw [htakes.result, hl]; simp [State.start]
  have hde : u.de = [] := by rw [htakes.result, hl, State.stages_de_nil rfl]; simp
  have hwidth := ((Config.wellFormed_iff _).mp hcfg).2.2
  have hlatch : u.traceDone = true := by
    rcases htakes.stop with ⟨hdone, -⟩ | ⟨-, -, hlen | hfull⟩
    · exact hdone
    · simp [hl, State.start] at hlen
      omega
    · simp [hde, State.start] at hfull
      omega
  have hout : u.out = [] := by
    obtain ⟨n, hn⟩ := programOrder_iff.mp hsound.order
    have hcount := hn.count
    exact List.length_eq_zero_iff.mp (show u.advance.out.length = 0 by rw [show u.advance.seqNext = 0 from hseq] at hcount; omega)
  refine ⟨u.advance, hstep, hsound.done hlatch (by rw [show u.advance.seqNext = 0 from hseq]; exact congrArg List.length hout), ?_⟩
  rw [State.observe, hcycle, show u.advance.out = [] from hout, show u.advance.seqNext = 0 from hseq]
  rfl

end Sys2Proof.Machine
end

section
/-!
PROOFS. The two inert fields: every stage operation commutes with erasing them (rules R22, R24): O56. Execute writes `wbDone` and
Fetch writes `pc`, so there the two sides agree after a second erasure.
-/

namespace Sys2Proof.Machine

/-! Erasing in one place -/

def ExlEntry.eraseInert (e : ExlEntry) : ExlEntry := { e with ins := e.ins.eraseInert }
def RobSlot.eraseInert (x : RobSlot) : RobSlot := { x with ins := x.ins.eraseInert }
def IqSlot.eraseInert (x : IqSlot) : IqSlot := { x with ins := x.ins.eraseInert }

@[simp] theorem InsRec.eraseInert_eraseInert (i : InsRec) : i.eraseInert.eraseInert = i.eraseInert := rfl
@[simp] theorem ExlEntry.eraseInert_eraseInert (e : ExlEntry) : e.eraseInert.eraseInert = e.eraseInert := rfl
@[simp] theorem ExlEntry.eraseInert_finish (e : ExlEntry) (c : Nat) :
    (e.eraseInert.finish c).eraseInert = (e.finish c).eraseInert := rfl

/-- The state with its six lists erased through the operations above. -/
theorem State.eraseInert_eq (s : State) : s.eraseInert = { s with
    de := s.de.map InsRec.eraseInert
    rn := s.rn.map InsRec.eraseInert
    rr := s.rr.map InsRec.eraseInert
    di := s.di.map InsRec.eraseInert
    wb := s.wb.map InsRec.eraseInert
    exl := s.exl.map ExlEntry.eraseInert
    rob := s.rob.map RobSlot.eraseInert
    iq := s.iq.map IqSlot.eraseInert } := rfl

@[simp] theorem State.eraseInert_eraseInert (s : State) : s.eraseInert.eraseInert = s.eraseInert := by
  simp only [State.eraseInert, List.map_map]
  rfl

theorem stampAll_eraseInert (b : List InsRec) (st : Stage) (c : Nat) :
    stampAll (b.map InsRec.eraseInert) st c = (stampAll b st c).map InsRec.eraseInert := by
  rw [stampAll, stampAll, List.map_map, List.map_map]
  rfl

/-! Retire and Writeback -/

section
variable (s : State)

theorem RobSlot.eraseInert_stampRetire (x : RobSlot) (c : Nat) : x.eraseInert.stampRetire c = (x.stampRetire c).eraseInert := by
  unfold RobSlot.stampRetire
  show (if x.valid && x.ready then _ else _) = _
  split <;> rfl

theorem State.eraseInert_retireOne (x : RobSlot) : s.eraseInert.retireOne x.eraseInert = (s.retireOne x).eraseInert := by
  rw [State.eraseInert_eq, State.eraseInert_eq, State.retireOne, State.retireOne]
  simp only [State.mk.injEq, true_and, and_true]
  exact ⟨(List.map_set (f := RobSlot.eraseInert) (a := { x with valid := false })).symm, rfl, rfl⟩

theorem State.eraseInert_retireLoop (n : Nat) : s.eraseInert.retireLoop n = (s.retireLoop n).eraseInert := by
  induction n generalizing s with
  | zero => rfl
  | succ n ih =>
    have hget : s.eraseInert.rob[s.eraseInert.head]? = (s.rob[s.head]?).map RobSlot.eraseInert := List.getElem?_map
    by_cases hhead : ∃ x, s.rob[s.head]? = some x ∧ (x.valid && x.ready) = true
    · obtain ⟨x, hx, hready⟩ := hhead
      rw [hx] at hget
      rw [State.retireLoop_succ_of_ready hx hready, State.retireLoop_succ_of_ready (x := x.eraseInert) hget hready,
        s.eraseInert_retireOne, ih]
    · have hstop : ∀ x, s.rob[s.head]? = some x → (x.valid && x.ready) = false := by simpa using hhead
      rw [State.retireLoop_of_stopped hstop, State.retireLoop_of_stopped]
      intro y hy
      obtain ⟨x, hx, rfl⟩ := Option.map_eq_some_iff.mp (hget.symm.trans hy)
      exact hstop x hx

theorem State.eraseInert_retire : s.eraseInert.retire = s.retire.eraseInert := by
  have hstamp : s.eraseInert.stampedForRetire = s.stampedForRetire.eraseInert := by
    rw [State.stampedForRetire, State.stampedForRetire, State.eraseInert_eq, State.eraseInert_eq]
    simp only [State.mk.injEq, true_and, and_true, List.map_map]
    exact List.map_congr_left fun x _ => x.eraseInert_stampRetire s.cycle
  rw [State.retire_eq, hstamp, State.eraseInert_retireLoop]
  rfl

theorem writebackRob_eraseInert (rob : List RobSlot) (i : InsRec) :
    writebackRob (rob.map RobSlot.eraseInert) i.eraseInert = (writebackRob rob i).map RobSlot.eraseInert := by
  induction rob with
  | nil => rfl
  | cons x rob ih =>
    have hholds : x.eraseInert.holds i.eraseInert.seq = x.holds i.seq := rfl
    simp only [List.map_cons, writebackRob, hholds, ih]
    split <;> rfl

theorem writebackAll_eraseInert (c : Nat) (b : List InsRec) (rob : List RobSlot) :
    writebackAll c (b.map InsRec.eraseInert) (rob.map RobSlot.eraseInert) = (writebackAll c b rob).map RobSlot.eraseInert := by
  induction b generalizing rob with
  | nil => rfl
  | cons i b ih => exact (congrArg _ (writebackRob_eraseInert rob (i.leave .wb c))).trans (ih _)

theorem State.eraseInert_writeback : s.eraseInert.writeback = s.writeback.eraseInert := by
  rw [State.eraseInert_eq, State.eraseInert_eq, State.writeback, State.writeback]
  simp only [stampAll_eraseInert, writebackAll_eraseInert, List.map_nil]

/-! Execute and Issue -/

/-- Completion reads neither field; it writes `wbDone`. -/
theorem State.eraseInert_completeOne (e : ExlEntry) :
    (s.eraseInert.completeOne e.eraseInert).eraseInert = (s.completeOne e).eraseInert := by
  have hroom : s.eraseInert.wbRoom = s.wbRoom := by simp [State.wbRoom, State.eraseInert]
  have hwake (x : IqSlot) : (x.eraseInert.wake e.ins.dstTag).eraseInert = (x.wake e.ins.dstTag).eraseInert := by
    unfold IqSlot.wake
    show (if x.valid then _ else _ : IqSlot).eraseInert = _
    split <;> rfl
  simp only [State.completeOne, hroom]
  simp only [State.eraseInert_eq, State.broadcast, State.mk.injEq, true_and, and_true, List.map_map]
  refine ⟨rfl, rfl, rfl, rfl, ?_, ?_, rfl, List.map_congr_left fun x _ => hwake x⟩
  · split <;> simp
  · split
    · simp
    · simp
      rfl

theorem State.completeOne_congr {s t : State} (h : s.eraseInert = t.eraseInert) (e : ExlEntry) :
    (s.completeOne e).eraseInert = (t.completeOne e.eraseInert).eraseInert := by
  rw [← s.eraseInert_completeOne, h, ← t.eraseInert_completeOne]
  rfl

theorem State.completeLoop_congr {s t : State} (h : s.eraseInert = t.eraseInert) (es : List ExlEntry) :
    (s.completeLoop es).eraseInert = (t.completeLoop (es.map ExlEntry.eraseInert)).eraseInert := by
  induction es generalizing s t with
  | nil => exact h
  | cons e es ih =>
    rw [List.map_cons]
    by_cases hrem : e.rem = 0
    · rw [State.completeLoop_cons_of_done _ hrem, State.completeLoop_cons_of_done _ (e := e.eraseInert) hrem]
      exact ih (State.completeOne_congr h e)
    · rw [State.completeLoop_cons_of_rest _ hrem, State.completeLoop_cons_of_rest _ (e := e.eraseInert) hrem]
      refine ih ?_
      have hkept (u : State) (d : ExlEntry) : ({ u with exl := u.exl ++ [d] } : State).eraseInert =
          { u.eraseInert with exl := u.eraseInert.exl ++ [d.eraseInert] } := by
        rw [State.eraseInert_eq, State.eraseInert_eq]
        simp
      rw [hkept, hkept, h]
      rfl

theorem State.eraseInert_execute : s.eraseInert.execute.eraseInert = s.execute.eraseInert := by
  have hlist : s.eraseInert.exl.map (fun e => e.countDown s.cycle) =
      (s.exl.map fun e => e.countDown s.cycle).map ExlEntry.eraseInert := by
    rw [State.eraseInert_eq, List.map_map, List.map_map]
    rfl
  have hempty : ({ s with exl := [] } : State).eraseInert = ({ s.eraseInert with exl := [] } : State).eraseInert :=
    (State.eraseInert_eraseInert { s with exl := [] }).symm
  rw [State.execute, State.execute, State.completeLoop_congr hempty, ← hlist]
  rfl

theorem oldestReady_eraseInert (q : List IqSlot) : oldestReady (q.map IqSlot.eraseInert) = oldestReady q := by
  induction q with
  | nil => rfl
  | cons x q ih =>
    rw [List.map_cons, oldestReady, ih]
    rfl

theorem State.eraseInert_issueOne (k : Nat) (x : IqSlot) : s.eraseInert.issueOne k x.eraseInert = (s.issueOne k x).eraseInert := by
  rw [State.eraseInert_eq, State.eraseInert_eq, State.issueOne, State.issueOne]
  simp only [State.mk.injEq, true_and, and_true, List.map_append]
  exact ⟨rfl, (List.map_set (f := IqSlot.eraseInert) (a := { x with valid := false })).symm⟩

theorem State.eraseInert_issueLoop (n : Nat) : s.eraseInert.issueLoop n = (s.issueLoop n).eraseInert := by
  induction n generalizing s with
  | zero => rfl
  | succ n ih =>
    have hold : oldestReady s.eraseInert.iq = oldestReady s.iq := oldestReady_eraseInert s.iq
    have hget (k : Nat) : s.eraseInert.iq[k]? = (s.iq[k]?).map IqSlot.eraseInert := List.getElem?_map
    simp only [State.issueLoop, hold]
    split
    · rfl
    next k hk =>
      rw [hget]
      cases hx : s.iq[k]? with
      | none => rfl
      | some x => exact (congrArg (fun u : State => u.issueLoop n) (s.eraseInert_issueOne k x)).trans (ih _)

theorem State.eraseInert_issue : s.eraseInert.issue = s.issue.eraseInert := by
  have hfull : s.eraseInert.exlFull = s.exlFull := by simp [State.exlFull, State.eraseInert]
  have hstamp (x : IqSlot) : x.eraseInert.stampIssue s.cycle = (x.stampIssue s.cycle).eraseInert := by
    unfold IqSlot.stampIssue
    show (if x.valid then _ else _) = _
    split <;> rfl
  have hstamps : ({ s.eraseInert with iq := s.eraseInert.iq.map fun x => x.stampIssue s.cycle } : State) =
      ({ s with iq := s.iq.map fun x => x.stampIssue s.cycle } : State).eraseInert := by
    rw [State.eraseInert_eq, State.eraseInert_eq]
    simp only [State.mk.injEq, true_and, and_true, List.map_map]
    exact List.map_congr_left fun x _ => hstamp x
  simp only [State.issue, hfull]
  split
  · rfl
  · exact (congrArg (fun u : State => u.issueLoop s.cfg.width) hstamps).trans (State.eraseInert_issueLoop _ _)

/-! Dispatch, Register-Read, Rename, Decode -/

theorem freeSlot_eraseInert (q : List IqSlot) : freeSlot (q.map IqSlot.eraseInert) = freeSlot q := by
  induction q with
  | nil => rfl
  | cons x q ih =>
    rw [List.map_cons, freeSlot, ih]
    rfl

theorem snapTag_eraseInert (rob : List RobSlot) (t : Option Nat) : snapTag (rob.map RobSlot.eraseInert) t = snapTag rob t := by
  have hready (k : Nat) : robReady (rob.map RobSlot.eraseInert) k = robReady rob k := by
    rw [robReady_eq, robReady_eq, List.getElem?_map, Option.map_map]
    rfl
  unfold snapTag
  simp only [hready]

theorem InsRec.eraseInert_snap (i : InsRec) (rob : List RobSlot) :
    i.eraseInert.snap (rob.map RobSlot.eraseInert) = (i.snap rob).eraseInert := by
  unfold InsRec.snap
  rw [snapTag_eraseInert, snapTag_eraseInert]
  rfl

theorem InsRec.eraseInert_dispatched (i : InsRec) (rob : List RobSlot) (c : Nat) :
    i.eraseInert.dispatched (rob.map RobSlot.eraseInert) c = (i.dispatched rob c).eraseInert :=
  congrArg (fun j : InsRec => j.leave .di c) (i.eraseInert_snap rob)

theorem State.eraseInert_dispatchLoop (b : List InsRec) :
    s.eraseInert.dispatchLoop (b.map InsRec.eraseInert) = (s.dispatchLoop b).eraseInert := by
  induction b generalizing s with
  | nil => rfl
  | cons i b ih =>
    have hfree : freeSlot s.eraseInert.iq = freeSlot s.iq := freeSlot_eraseInert s.iq
    simp only [List.map_cons, State.dispatchLoop, hfree]
    split
    · rfl
    next k hk =>
      rw [← ih]
      congr 1
      rw [State.eraseInert_eq, State.eraseInert_eq]
      simp only [State.mk.injEq, true_and, and_true, i.eraseInert_dispatched]
      exact (List.map_set (f := IqSlot.eraseInert) (a := { valid := true, ins := i.dispatched s.rob s.cycle })).symm

theorem State.eraseInert_dispatch : s.eraseInert.dispatch = s.dispatch.eraseInert := by
  have hfree : s.eraseInert.iqAdmits = s.iqAdmits := by
    have hcount : s.eraseInert.iqFree = s.iqFree := List.countP_map
    unfold State.iqAdmits
    rw [hcount]
    rfl
  have hstamp : stampAll s.eraseInert.di .di s.eraseInert.cycle = (stampAll s.di .di s.cycle).map InsRec.eraseInert :=
    stampAll_eraseInert ..
  simp only [State.dispatch, hfree, hstamp]
  split
  · exact s.eraseInert_dispatchLoop _
  · rfl

theorem State.eraseInert_regRead : s.eraseInert.regRead = s.regRead.eraseInert := by
  have hread : (fun i : InsRec => (i.eraseInert).regRead (s.rob.map RobSlot.eraseInert) s.cycle) =
      fun i : InsRec => (i.regRead s.rob s.cycle).eraseInert :=
    funext fun i => congrArg (fun j : InsRec => j.leave .rr s.cycle) (i.eraseInert_snap s.rob)
  rw [State.regRead, State.regRead, moveWhile_eq, moveWhile_eq, State.eraseInert_eq, State.eraseInert_eq]
  simp only [stampAll_eraseInert, List.length_map, List.map_append, List.map_drop, List.map_take, List.map_map, Function.comp_def,
    hread]

theorem State.eraseInert_decode : s.eraseInert.decode = s.decode.eraseInert := by
  rw [State.decode, State.decode, moveWhile_eq, moveWhile_eq, State.eraseInert_eq, State.eraseInert_eq]
  simp only [State.mk.injEq, true_and, and_true, stampAll_eraseInert, List.length_map, List.map_append, List.map_drop,
    List.map_take, List.map_map]
  rfl

theorem State.eraseInert_renameOne (i : InsRec) : s.eraseInert.renameOne i.eraseInert = (s.renameOne i).eraseInert := by
  rw [State.eraseInert_eq, State.eraseInert_eq, State.renameOne, State.renameOne]
  simp only [State.mk.injEq, true_and, and_true, List.map_append]
  exact ⟨rfl, (List.map_set (f := RobSlot.eraseInert) (a := { valid := true, ready := false, ins := i, dstArf := i.dst })).symm, rfl⟩

theorem State.eraseInert_renameLoop (b : List InsRec) :
    s.eraseInert.renameLoop (b.map InsRec.eraseInert) = (s.renameLoop b).eraseInert := by
  induction b generalizing s with
  | nil => rfl
  | cons i b ih =>
    have hroom : s.eraseInert.room s.eraseInert.rr = s.room s.rr := by simp [State.room, State.eraseInert]
    simp only [List.map_cons, State.renameLoop, hroom]
    split
    · rw [s.eraseInert_renameOne, ih]
    · rfl

theorem State.eraseInert_rename : s.eraseInert.rename = s.rename.eraseInert := by
  have hfree : s.eraseInert.robAdmits = s.robAdmits := by
    have hcount : s.eraseInert.robFree = s.robFree := List.countP_map
    unfold State.robAdmits
    rw [hcount]
    rfl
  have hstamp : stampAll s.eraseInert.rn .rn s.eraseInert.cycle = (stampAll s.rn .rn s.cycle).map InsRec.eraseInert :=
    stampAll_eraseInert ..
  simp only [State.rename, hfree, hstamp]
  split
  · exact s.eraseInert_renameLoop _
  · rfl

/-! The eight stages, Fetch and the step -/

/-- Of the eight stages only Execute writes an inert field, and none behind it reads one. -/
theorem State.eraseInert_stages : s.eraseInert.stages.eraseInert = s.stages.eraseInert := by
  rw [State.stages, State.stages]
  simp only [State.eraseInert_retire, State.eraseInert_writeback, ← State.eraseInert_decode, ← State.eraseInert_rename,
    ← State.eraseInert_regRead, ← State.eraseInert_dispatch, ← State.eraseInert_issue, State.eraseInert_execute]

end

/-- A fetched record is the same but for its `pc`, whatever the inert fields of the others. -/
theorem State.take_congr {s t : State} (h : s.eraseInert = t.eraseInert) (i : Instr) : (s.take i).eraseInert = (t.take i).eraseInert := by
  have herase (u : State) : (u.take i).eraseInert = (u.eraseInert.take i).eraseInert := by
    have hopen : u.eraseInert.consume.fetchOpen = u.consume.fetchOpen := by
      simp only [State.fetchOpen, State.room, State.eraseInert, State.consume, List.length_map]
      rfl
    rw [State.take, State.take, State.fetchOne, State.fetchOne, hopen]
    cases u.consume.fetchOpen with
    | false => exact (State.eraseInert_eraseInert u.consume).symm
    | true =>
      simp only [State.eraseInert_eq, State.consume, if_true, List.map_append, List.map_map]
      rfl
  rw [herase, h, ← herase]

/-- What Fetch reads of a state is not inert. -/
theorem State.port_of_eraseInert_eq {s t : State} (h : s.eraseInert = t.eraseInert) :
    s.cfg = t.cfg ∧ s.trace = t.trace ∧ s.traceDone = t.traceDone ∧ s.de.length = t.de.length := by
  simp only [State.eraseInert_eq, State.mk.injEq] at h
  obtain ⟨hcfg, -, -, hlatch, hde, -, -, -, -, -, -, -, -, -, -, -, htrace⟩ := h
  exact ⟨hcfg, htrace, hlatch, by simpa using congrArg List.length hde⟩

theorem fetchLoop_congr {n : Nat} {s t u : State} (h : s.eraseInert = t.eraseInert) (hu : fetchLoop n s = .next u) :
    ∃ v, fetchLoop n t = .next v ∧ v.eraseInert = u.eraseInert := by
  induction n generalizing s t with
  | zero => exact ⟨t, rfl, h.symm.trans (congrArg State.eraseInert (Host.Outcome.next.inj hu))⟩
  | succ n ih =>
    obtain ⟨hcfg, htrace, -, hde⟩ := State.port_of_eraseInert_eq h
    have hroom : t.room t.de = s.room s.de := by rw [State.room, State.room, hde, hcfg]
    rcases fetchLoop_succ_cases hu with ⟨hfull, rfl⟩ | ⟨hopen, hend, rfl⟩ | ⟨hopen, i, hi, hrest⟩
    · exact ⟨t, fetchLoop_of_full (hroom.trans hfull) _, h.symm⟩
    · refine ⟨t.latchEnd, fetchLoop_succ_of_end (hroom.trans hopen) n (by rw [← htrace, hend]), ?_⟩
      exact congrArg State.latchEnd h.symm
    · rw [fetchLoop_succ_of_record (hroom.trans hopen) n (by rw [← htrace, hi])]
      exact ih (State.take_congr h i) hrest

theorem fetch_congr {s t u : State} (h : s.eraseInert = t.eraseInert) (hu : fetch s = .next u) :
    ∃ v, fetch t = .next v ∧ v.eraseInert = u.eraseInert := by
  obtain ⟨hcfg, -, hlatch, -⟩ := State.port_of_eraseInert_eq h
  rcases fetch_cases hu with ⟨hdone, rfl⟩ | ⟨hopen, hloop⟩
  · exact ⟨t, fetch_of_traceDone (hlatch ▸ hdone), h.symm⟩
  · rw [fetch_of_open (hlatch ▸ hopen), ← hcfg]
    exact fetchLoop_congr h hloop

theorem State.eraseInert_continues (s : State) : s.eraseInert.continues = s.continues := by
  simp [State.continues, State.eraseInert, State.iqNonEmpty, State.robNonEmpty, Function.comp_def]

/-- Settles O56: every stage commutes with the erasure, Execute and Fetch but for the field they write. -/
theorem pcAndDoneFlagAreInert : Obligations.PcAndDoneFlagAreInert := by
  intro s t hstep
  obtain ⟨hcfg, ⟨hstop, rfl⟩ | ⟨hgo, u, hu, rfl⟩⟩ := step_cases hstep
  · exact ⟨t.eraseInert, step_of_stopped hcfg (t.eraseInert_continues.trans hstop), t.eraseInert_eraseInert⟩
  · obtain ⟨v, hv, herase⟩ := fetch_congr s.eraseInert_stages.symm hu
    refine ⟨v.advance, ?_, congrArg State.advance herase⟩
    rw [step_eq_tick (s := s.eraseInert) hcfg (s.eraseInert_continues.trans hgo)]
    exact andThen_next.mpr ⟨v, hv, rfl⟩

end Sys2Proof.Machine
end

section
/-!
PROOFS. With `WIDTH` above `ROB_SIZE` Rename never moves, with `WIDTH` above `IQ_SIZE` Dispatch never moves (rules R131, R143): a run
that has fetched an instruction never stops (rule R211): O54.
-/

namespace Sys2Proof.Machine

/-! Stages that find nothing to do -/

section
variable {s : State}

theorem State.retire_of_none_ready (h : ∀ x ∈ s.rob, x.valid = true → x.ready = false) : s.retire = s := by
  have hstamp : s.stampedForRetire = s := by
    have hsame : s.rob.map (fun x => x.stampRetire s.cycle) = s.rob := by
      refine (List.map_congr_left fun x hx => if_neg ?_).trans (List.map_id _)
      simpa using h x hx
    rw [State.stampedForRetire, hsame]
  rw [State.retire_eq, hstamp]
  refine State.retireLoop_of_stopped (fun x hx => ?_) _
  simpa using h x (List.mem_of_getElem? hx)

theorem State.writeback_of_wb_nil (h : s.wb = []) : s.writeback = s := by
  cases s
  cases h
  rfl

theorem State.execute_of_exl_nil (h : s.exl = []) : s.execute = s := by
  cases s
  cases h
  rfl

theorem State.issue_of_none_valid (h : ∀ x ∈ s.iq, x.valid = false) : s.issue = s := by
  have hsame : s.iq.map (fun x => x.stampIssue s.cycle) = s.iq :=
    (List.map_congr_left fun x hx => if_neg (Bool.eq_false_iff.mp (h x hx))).trans (List.map_id _)
  have hnone : oldestReady s.iq = none := oldestReady_eq_none_iff.mpr fun x hx => by simp [IqSlot.selectable, h x hx]
  have hwait (n : Nat) : s.issueLoop n = s := by
    cases n with
    | zero => rfl
    | succ n => simp [State.issueLoop, hnone]
  unfold State.issue
  rw [hsame]
  split
  · rfl
  · exact hwait _

theorem State.iqFree_le (s : State) : s.iqFree ≤ s.iq.length := List.countP_le_length
theorem State.robFree_le (s : State) : s.robFree ≤ s.rob.length := List.countP_le_length

/-- A slot after Rename is an old one or has just been allocated, so that it is not ready (rule R132). -/
theorem State.mem_renameLoop_rob {b : List InsRec} {x : RobSlot} (hx : x ∈ (s.renameLoop b).rob) : x ∈ s.rob ∨ x.ready = false := by
  induction b generalizing s with
  | nil => exact .inl hx
  | cons i b ih =>
    simp only [State.renameLoop] at hx
    split at hx
    · rcases ih hx with hx | hx
      · rcases List.mem_or_eq_of_mem_set hx with hx | rfl
        · exact .inl hx
        · exact .inr rfl
      · exact .inr hx
    · exact .inl hx

theorem State.mem_rename_rob {x : RobSlot} (hx : x ∈ s.rename.rob) : x ∈ s.rob ∨ x.ready = false := by
  unfold State.rename at hx
  split at hx
  · exact State.mem_renameLoop_rob hx
  · exact .inl hx

/-! The hung engine -/

/-- Nothing has been issued, and nothing will be: the IQ never admits a group, or the ROB never does and nothing is behind Rename. -/
structure Hung (s : State) : Prop where
  iq : ∀ x ∈ s.iq, x.valid = false
  exl : s.exl = []
  wb : s.wb = []
  rob : ∀ x ∈ s.rob, x.valid = true → x.ready = false
  out : s.out = []
  narrow : s.cfg.iqSize < s.cfg.width ∨
    (s.cfg.robSize < s.cfg.width ∧ (∀ x ∈ s.rob, x.valid = false) ∧ s.rr = [] ∧ s.di = [])

/-- In a hung engine the stages up to Dispatch do nothing but stamp DI. -/
theorem Hung.dispatch_eq (h : Hung s) (hsized : Sized s) :
    s.retire.writeback.execute.issue.dispatch = { s with di := stampAll s.di .di s.cycle } := by
  rw [State.retire_of_none_ready h.rob, State.writeback_of_wb_nil h.wb, State.execute_of_exl_nil h.exl,
    State.issue_of_none_valid h.iq]
  rcases h.narrow with hiq | ⟨-, -, -, hdi⟩
  · exact State.dispatch_of_full (s.iqFree_le.trans_lt (hsized.iq ▸ hiq))
  · have hloop : s.dispatchLoop [] = { s with di := [] } := rfl
    simp [State.dispatch, hdi, stampAll, hloop]

theorem Hung.stages (h : Hung s) (hsized : Sized s) : Hung s.stages := by
  rw [State.stages, h.dispatch_eq hsized]
  generalize hu : { s with di := stampAll s.di .di s.cycle } = u
  have hrob : u.rob = s.rob := hu ▸ rfl
  have hcfg : u.cfg = s.cfg := hu ▸ rfl
  constructor
  case iq => simpa [← hu] using h.iq
  case exl => simpa [← hu] using h.exl
  case wb => simpa [← hu] using h.wb
  case out => simpa [← hu] using h.out
  case rob =>
    intro x hx hv
    rcases State.mem_rename_rob hx with hx | hx
    · exact h.rob x (hrob ▸ hx) hv
    · exact hx
  case narrow =>
    simp only [State.decode_cfg, State.rename_cfg, State.regRead_cfg, hcfg, State.decode_rob, State.decode_rr, State.decode_di,
      State.rename_di]
    refine h.narrow.imp_right fun ⟨hwide, hfree, hrr, hdi⟩ => ⟨hwide, ?_⟩
    have hread : u.regRead.rr = [] ∧ u.regRead.di = [] := by
      rw [u.regRead_eq, ← hu]
      simp [hrr, hdi, stampAll]
    have hfull : u.regRead.robFree < u.regRead.cfg.width := by
      refine (State.robFree_le _).trans_lt ?_
      rw [State.regRead_rob, State.regRead_cfg, hrob, hcfg, hsized.rob]
      exact hwide
    rw [State.rename_of_full hfull]
    exact ⟨by rw [State.regRead_rob, hrob]; exact hfree, hread.1, hread.2⟩

theorem Hung.fetch {t : State} (h : Hung s) (hfetch : fetch s = .next t) : Hung t := by
  rw [fetch_frame hfetch]
  exact { h with }

theorem Hung.step {t : State} (h : Hung s) (hsized : Sized s) (hstep : step s = .next t) : Hung t :=
  step_keeps_of (fun _ => h.stages hsized) Hung.fetch (fun h => { h with }) h hstep

/-! An instruction is fetched -/

/-- An instruction has been fetched, or is about to be. -/
def Fetches (s : State) : Prop :=
  1 ≤ s.seqNext ∨ (s.traceDone = false ∧ s.de = [] ∧ ∃ i, traceAnswer s.trace = .instr i)

theorem Fetches.stages (h : Fetches s) : Fetches s.stages := by
  rw [Fetches, State.stages_seqNext, State.stages_traceDone, State.stages_trace]
  exact h.imp_right fun ⟨hlatch, hde, hrec⟩ => ⟨hlatch, State.stages_de_nil hde, hrec⟩

/-- Fetch never takes a number back. -/
theorem fetch_seqNext_le {t : State} (hfetch : fetch s = .next t) : s.seqNext ≤ t.seqNext := by
  rcases fetch_cases hfetch with ⟨-, rfl⟩ | ⟨hlatch, -⟩
  · exact Nat.le_refl _
  · obtain ⟨l, lines, rest, htakes⟩ := fetch_takes hlatch hfetch
    rw [htakes.result]
    exact Nat.le_add_right _ _

theorem Fetches.fetch {t : State} (h : Fetches s) (hcfg : s.cfg.wellFormed = true) (hfetch : fetch s = .next t) : 1 ≤ t.seqNext := by
  rcases h with hpos | ⟨hlatch, hde, i, hi⟩
  · exact hpos.trans (fetch_seqNext_le hfetch)
  · obtain ⟨l, lines, rest, htakes⟩ := fetch_takes hlatch hfetch
    have hwidth := ((Config.wellFormed_iff _).mp hcfg).2.2
    have hl : l ≠ [] := by
      rintro rfl
      have hlines : lines = [] := by simpa using htakes.decoded
      have hrest : s.trace = rest := by simpa [hlines] using htakes.trace
      have hlen : t.de.length = 0 := by simpa [hde] using congrArg (fun u : State => u.de.length) htakes.result
      rcases htakes.stop with ⟨-, -, hend⟩ | ⟨-, -, hlimit | hfull⟩
      · rw [← hrest, hi] at hend
        cases hend
      · simp only [List.length_nil] at hlimit
        omega
      · omega
    rw [htakes.result]
    exact (List.length_pos_iff.mpr hl).trans_le (Nat.le_add_left _ _)

theorem Fetches.step {t : State} (h : Fetches s) (hstep : step s = .next t) : Fetches t := by
  obtain ⟨hcfg, ⟨-, rfl⟩ | ⟨-, u, hu, rfl⟩⟩ := step_cases hstep
  · exact h
  · exact .inl (show 1 ≤ u.seqNext from h.stages.fetch (by rw [State.stages_cfg]; exact hcfg) hu)

/-- A sound engine that has fetched an instruction and emitted none goes on (rule R112). -/
theorem Sound.continues_of_fetches (h : Sound s) (hfetch : Fetches s) (hout : s.out = []) : s.continues = true := by
  rcases hfetch with hpos | ⟨hlatch, -⟩
  · refine Bool.not_eq_false _ ▸ fun hstop => ?_
    obtain ⟨-, hde, hrn, -, -, -, -, -, hrob⟩ := s.continues_eq_false_iff.mp hstop
    obtain ⟨n, hn⟩ := programOrder_iff.mp h.order
    obtain rfl := hn.count_eq_zero h.sized hrob
    have hcount := hn.count
    simp only [hout, hde, hrn, List.length_nil] at hcount
    omega
  · exact State.continues_of_open hlatch

end

/-! Runs -/

/-- Where every state with `P` has a next state with `P`, a run of any length goes on, a cycle per step as long as the driver does. -/
theorem exists_run_of_step {P : State → Prop} (hstep : ∀ s, P s → s.continues = true ∧ ∃ t, step s = .next t ∧ P t) (n : Nat)
    {s : State} (hs : P s) : ∃ t, run n s = .next t ∧ P t ∧ t.cycle = s.cycle + n := by
  induction n generalizing s with
  | zero => exact ⟨s, rfl, hs, rfl⟩
  | succ n ih =>
    obtain ⟨hgo, u, hu, hpu⟩ := hstep s hs
    obtain ⟨t, ht, hpt, hcycle⟩ := ih hpu
    have hone := step_cycle hu hgo
    exact ⟨t, andThen_next.mpr ⟨u, hu, ht⟩, hpt, by omega⟩

/-- What a run of a configuration with too wide a group keeps. -/
structure NeverStops (s : State) : Prop where
  sound : Sound s
  hung : Hung s
  fetches : Fetches s
  inDomain : ∀ line ∈ s.trace, lineInDomain line = true

theorem NeverStops.step {s : State} (h : NeverStops s) : s.continues = true ∧ ∃ t, step s = .next t ∧ NeverStops t := by
  obtain ⟨t, hstep, hrest⟩ := step_of_inDomain h.sound.sized.cfg h.inDomain
  exact ⟨h.sound.continues_of_fetches h.fetches h.hung.out, t, hstep,
    ⟨h.sound.step hstep, h.hung.step h.sound.sized hstep, h.fetches.step hstep, hrest⟩⟩

theorem hung_start {cfg : Config} (h : cfg.robSize < cfg.width ∨ cfg.iqSize < cfg.width) (trace : List TraceLine) :
    Hung (State.start cfg trace) where
  iq x hx := by
    obtain rfl := List.eq_of_mem_replicate hx
    rfl
  exl := rfl
  wb := rfl
  rob x hx hv := by
    obtain rfl := List.eq_of_mem_replicate hx
    cases hv
  out := rfl
  narrow := h.symm.imp_right fun hrob => ⟨hrob, fun x hx => by rw [List.eq_of_mem_replicate hx]; rfl, rfl, rfl⟩

theorem decodeLine_of_record {line : TraceLine} (h : lineIsRecord line = true) : ∃ i, decodeLine line = .instr i := by
  unfold lineIsRecord at h
  split at h
  next i hi => exact ⟨i, hi⟩
  all_goals cases h

theorem lineInDomain_of_record {line : TraceLine} (h : lineIsRecord line = true) : lineInDomain line = true := by
  obtain ⟨i, hi⟩ := decodeLine_of_record h
  simp [lineInDomain, hi]

/-- Settles O54: the group never gets past Rename, or never past Dispatch, so that nothing is issued, and what was fetched stays. -/
theorem oversizedWidthHangs : Obligations.OversizedWidthHangs := by
  intro cfg line rest hcfg hwide hrec hrest n
  have hstart : NeverStops (State.start cfg (line :: rest)) := by
    refine ⟨sound_start hcfg _, hung_start hwide _, .inr ⟨rfl, rfl, decodeLine_of_record hrec⟩, fun l hl => ?_⟩
    rcases List.mem_cons.mp hl with rfl | hl
    · exact lineInDomain_of_record hrec
    · exact hrest l hl
  obtain ⟨t, hrun, ht, hcycle⟩ := exists_run_of_step (fun _ h => h.step) n hstart
  exact ⟨t, hrun, ht.step.1, hcycle.trans (Nat.zero_add n), ht.hung.out⟩

end Sys2Proof.Machine
end

section
/-!
PROOFS. A read after a write waits (rule R251): an instruction enters execution no earlier than the last older writer of each of its
source registers has finished. The invariant speaks of the records that have entered execution and of those that have left it: O60.
-/

namespace Sys2Proof.Machine

/-! What the invariant reads of a record -/

/-- The sequence number, the sources and the execute stage of a record or a timing record. -/
structure ExView where
  seq : Nat
  src1 : RegField
  src2 : RegField
  ex : StageTime

def InsRec.exView (i : InsRec) : ExView := ⟨i.seq, i.src1, i.src2, i.times.ex⟩
def TimingRecord.exView (o : TimingRecord) : ExView := ⟨o.seq, o.src1, o.src2, o.times.ex⟩

def ExView.reads (v : ExView) (r : ArfIndex) : Prop := v.src1 = some r ∨ v.src2 = some r

/-- The cycle after the last one of the execute stage (rule R243). -/
def ExView.finish (v : ExView) : Nat := v.ex.cyc.getD 0 + v.ex.dur

/-- The cycle of entry into the execute stage, `c` where it is still to come. -/
def ExView.entry (v : ExView) (c : Nat) : Nat := v.ex.cyc.getD c

theorem ExView.entry_mono (v : ExView) {c d : Nat} (h : c ≤ d) : v.entry c ≤ v.entry d := by
  unfold ExView.entry
  cases v.ex.cyc with
  | none => exact h
  | some a => exact Nat.le_refl a

/-- A record that has left the execute stage: in WB, in a ready slot or emitted. -/
def State.Finished (s : State) (v : ExView) : Prop :=
  (∃ o ∈ s.out, o.exView = v) ∨ (∃ x ∈ s.rob, x.valid = true ∧ x.ready = true ∧ x.ins.exView = v) ∨ ∃ i ∈ s.wb, i.exView = v

/-- A record that Issue has selected. -/
def State.Issued (s : State) (v : ExView) : Prop := s.Finished v ∨ ∃ e ∈ s.exl, e.ins.exView = v

/-- The instruction with number `n` and destination `d` has been renamed. -/
def State.Renamed (s : State) (n : Nat) (d : RegField) : Prop :=
  (∃ o ∈ s.out, o.seq = n ∧ o.dst = d) ∨ ∃ x ∈ s.rob, x.valid = true ∧ x.ins.seq = n ∧ x.dstArf = d

/-- `m` is the number of the last writer of `r` before number `n` (rules R246, R251). -/
structure State.LastWriter (s : State) (n : Nat) (r : ArfIndex) (m : Nat) : Prop where
  writes : s.Renamed m (some r)
  older : m < n
  last : ∀ k, s.Renamed k (some r) → k < n → k ≤ m

/-- With `c` as the next cycle: what has finished did so before, and whoever has been issued found the last writer of each of its
source registers finished by the cycle of its own entry. -/
structure SourcesWaited (s : State) (c : Nat) : Prop where
  finished : ∀ v, s.Finished v → v.finish ≤ c
  waited : ∀ v, s.Issued v → ∀ r, v.reads r → ∀ m, s.LastWriter v.seq r m → ∃ w, s.Finished w ∧ w.seq = m ∧ w.finish ≤ v.entry c

section
variable {s t : State} {c : Nat}

theorem State.LastWriter.of_renamed {n : Nat} (h : ∀ k d, k < n → (t.Renamed k d ↔ s.Renamed k d)) {r : ArfIndex} {m : Nat}
    (hm : t.LastWriter n r m) : s.LastWriter n r m :=
  ⟨(h m _ hm.older).mp hm.writes, hm.older, fun k hk hlt => hm.last k ((h k _ hlt).mpr hk) hlt⟩

/-- Moving finished records, and renaming instructions younger than all that have been issued, keeps the invariant. -/
theorem SourcesWaited.of_finished_iff (h : SourcesWaited s c) (hfinished : ∀ v, t.Finished v ↔ s.Finished v) (hexl : t.exl = s.exl)
    (hrenamed : ∀ v, s.Issued v → ∀ k d, k < v.seq → (t.Renamed k d ↔ s.Renamed k d)) : SourcesWaited t c where
  finished v hv := h.finished v ((hfinished v).mp hv)
  waited v hv r hr m hm := by
    have hv' : s.Issued v := hv.imp (hfinished v).mp fun he => hexl ▸ he
    obtain ⟨w, hw, hseq, hle⟩ := h.waited v hv' r hr m (hm.of_renamed (hrenamed v hv'))
    exact ⟨w, (hfinished w).mpr hw, hseq, hle⟩

theorem SourcesWaited.of_backend_eq (h : SourcesWaited s c) (hout : t.out = s.out) (hrob : t.rob = s.rob) (hwb : t.wb = s.wb)
    (hexl : t.exl = s.exl) : SourcesWaited t c :=
  h.of_finished_iff (fun v => by rw [State.Finished, State.Finished, hout, hrob, hwb]) hexl fun _ _ k d _ => by
    rw [State.Renamed, State.Renamed, hout, hrob]

/-! Retire -/

/-- The occupied slots before the retirement of `x` are those after it, and `x`. -/
theorem exists_valid_set_freed_or {rob : List RobSlot} {k : Nat} {x : RobSlot} (hx : rob[k]? = some x) (hv : x.valid = true)
    (P : RobSlot → Prop) :
    (P x ∨ ∃ y ∈ rob.set k { x with valid := false }, y.valid = true ∧ P y) ↔ ∃ y ∈ rob, y.valid = true ∧ P y := by
  constructor
  · rintro (hp | ⟨y, hy, hvy, hp⟩)
    · exact ⟨x, List.mem_of_getElem? hx, hv, hp⟩
    · rcases List.mem_or_eq_of_mem_set hy with hy | rfl
      · exact ⟨y, hy, hvy, hp⟩
      · cases hvy
  · rintro ⟨y, hy, hvy, hp⟩
    obtain ⟨j, hj⟩ := List.mem_iff_getElem?.mp hy
    by_cases hjk : k = j
    · subst hjk
      exact .inl (Option.some.inj (hj.symm.trans hx) ▸ hp)
    · exact .inr ⟨y, List.mem_of_getElem? ((List.getElem?_set_ne hjk).trans hj), hvy, hp⟩

theorem SourcesWaited.retireOne {x : RobSlot} (h : SourcesWaited s c) (hflight : InFlight s) (hx : s.rob[s.head]? = some x)
    (hv : x.valid = true) (hr : x.ready = true) : SourcesWaited (s.retireOne x) c := by
  refine h.of_finished_iff (fun v => ?_) rfl fun _ _ k d _ => ?_
  · have hslots := exists_valid_set_freed_or hx hv fun y => y.ready = true ∧ y.ins.exView = v
    have hview : (x.ins.leave .rt s.cycle).timing.exView = x.ins.exView := rfl
    rw [State.Finished, State.Finished, State.retireOne_out, State.retireOne_rob, State.retireOne_wb, ← hslots]
    simp only [List.mem_append, List.mem_singleton, or_and_right, exists_or, exists_eq_left, hview, or_assoc, hr, true_and]
  · have hslots := exists_valid_set_freed_or hx hv fun y => y.ins.seq = k ∧ y.dstArf = d
    have hdst := hflight.slots x (List.mem_of_getElem? hx) hv
    have hseq : (x.ins.leave .rt s.cycle).timing.seq = x.ins.seq := rfl
    have hdst' : (x.ins.leave .rt s.cycle).timing.dst = x.dstArf := hdst.symm
    rw [State.Renamed, State.Renamed, State.retireOne_out, State.retireOne_rob, ← hslots]
    simp only [List.mem_append, List.mem_singleton, or_and_right, exists_or, exists_eq_left, hseq, hdst', or_assoc]

theorem SourcesWaited.retire (h : SourcesWaited s c) (hsized : Sized s) (hpo : ProgramOrder s) (hflight : InFlight s) :
    SourcesWaited s.retire c := by
  have hstamp : SourcesWaited s.stampedForRetire c := by
    refine h.of_finished_iff (fun v => ?_) rfl fun _ _ k d _ => ?_
    · have hview (x : RobSlot) : (x.stampRetire s.cycle).ins.exView = x.ins.exView := by
        unfold RobSlot.stampRetire
        split <;> rfl
      simp [State.Finished, State.stampedForRetire, hview]
    · simp [State.Renamed, State.stampedForRetire]
  exact (retire_induction (P := fun u => InFlight u ∧ SourcesWaited u c) hsized hpo ⟨hflight.stampedForRetire, hstamp⟩
    fun u x _ _ ⟨hf, hw⟩ hx hv hr => ⟨hf.retireOne hx hr, hw.retireOne hf hx hv hr⟩).2.2.2

/-! Writeback -/

theorem SourcesWaited.writeback (h : SourcesWaited s c) (hsized : Sized s) (hpo : ProgramOrder s) (hflight : InFlight s) :
    SourcesWaited s.writeback c := by
  obtain ⟨n, hn⟩ := programOrder_iff.mp hpo
  have hslot {j : Nat} {x : RobSlot} (hx : s.rob[j]? = some x) := State.writeback_slot hn hsized hflight.wb_nodup hx
  have hwritten (i : InsRec) (x : RobSlot) : (x.written ((i.stamp .wb s.cycle).leave .wb s.cycle)).ins.exView = i.exView := rfl
  refine h.of_finished_iff (fun v => or_congr_right ⟨?_, ?_⟩) rfl fun _ _ k d _ => or_congr_right ⟨?_, ?_⟩
  · rintro (⟨y, hy, hv, hr, rfl⟩ | ⟨i, hi, -⟩)
    · obtain ⟨j, hj⟩ := List.mem_iff_getElem?.mp hy
      obtain ⟨x, hx⟩ : ∃ x, s.rob[j]? = some x := by
        obtain ⟨hlt, -⟩ := List.getElem?_eq_some_iff.mp hj
        exact ⟨_, List.getElem?_eq_getElem (by rwa [State.writeback, writebackAll_length] at hlt)⟩
      rcases hslot hx with ⟨hsame, -⟩ | ⟨i, hi, -, hnew⟩
      · obtain rfl := Option.some.inj (hsame.symm.trans hj)
        exact .inl ⟨x, List.mem_of_getElem? hx, hv, hr, rfl⟩
      · obtain rfl := Option.some.inj (hnew.symm.trans hj)
        exact .inr ⟨i, hi, (hwritten i x).symm⟩
    · cases hi
  · rintro (⟨x, hx, hv, hr, rfl⟩ | ⟨i, hi, rfl⟩)
    · obtain ⟨j, hj⟩ := List.mem_iff_getElem?.mp hx
      rcases hslot hj with ⟨hsame, -⟩ | ⟨i, hi, hholds, -⟩
      · exact .inl ⟨x, List.mem_of_getElem? hsame, hv, hr, rfl⟩
      · obtain ⟨k, z, -, hz, -, hrz, -, honly⟩ := hflight.owns i (mem_travelling.mpr (.inr hi))
        obtain rfl := honly j x hj hv ((x.holds_iff _).mp hholds).2
        obtain rfl := Option.some.inj (hz.symm.trans hj)
        rw [hrz] at hr
        cases hr
    · obtain ⟨k, z, -, hz, hvz, -, hsame, -⟩ := hflight.owns i (mem_travelling.mpr (.inr hi))
      have hholds := (z.holds_iff _).mpr ⟨hvz, hsame.seq⟩
      rcases hslot hz with ⟨-, hnone⟩ | ⟨i', hi', hholds', hnew⟩
      · rw [hnone i hi] at hholds
        cases hholds
      · have hseq : i'.seq = i.seq := ((z.holds_iff _).mp hholds').2.symm.trans hsame.seq
        obtain rfl := List.inj_on_of_nodup_map hflight.wb_nodup hi' hi hseq
        exact .inl ⟨_, List.mem_of_getElem? hnew, hvz, rfl, hwritten i' z⟩
  all_goals
    rintro ⟨x, hx, hv, hseq, hdst⟩
  · obtain ⟨y, hy, hclaim⟩ := exists_mem_of_map_claim_eq (map_claim_writebackAll ..).symm hx
    obtain ⟨hvy, hdsty, hseqy⟩ := RobSlot.claim_eq_iff.mp hclaim
    exact ⟨y, hy, hvy.trans hv, hseqy.trans hseq, hdsty.trans hdst⟩
  · obtain ⟨y, hy, hclaim⟩ := exists_mem_of_map_claim_eq (map_claim_writebackAll s.cycle (stampAll s.wb .wb s.cycle) s.rob) hx
    obtain ⟨hvy, hdsty, hseqy⟩ := RobSlot.claim_eq_iff.mp hclaim
    exact ⟨y, hy, hvy.trans hv, hseqy.trans hseq, hdsty.trans hdst⟩

/-! Execute and Issue -/

/-- A completing record finishes with the cycle that Execute runs in; one that is stamped now enters in it (rules R157, R159). -/
theorem SourcesWaited.execute (h : SourcesWaited s s.cycle) (hexl : ExlOnTime s.exl s.cycle) (hwb : s.wb = [])
    (hroom : s.completing.length ≤ 5 * s.cfg.width) : SourcesWaited s.execute (s.cycle + 1) := by
  obtain ⟨hstay, hdone⟩ := State.execute_of_enough_room (s := s) (by rw [hwb]; exact (Nat.zero_add _).trans_le hroom)
  rw [hwb, List.nil_append] at hdone
  have hkept {v : ExView} (hv : s.Finished v) : s.execute.Finished v := by
    rcases hv with hv | hv | ⟨i, hi, -⟩
    · exact .inl (s.execute_out ▸ hv)
    · exact .inr (.inl (s.execute_rob ▸ hv))
    · rw [hwb] at hi
      cases hi
  have hsource {v : ExView} (hv : s.execute.Finished v) : s.Finished v ∨ ∃ e ∈ s.completing, (e.finish s.cycle).exView = v := by
    rcases hv with hv | hv | ⟨i, hi, hview⟩
    · exact .inl (.inl (s.execute_out ▸ hv))
    · exact .inl (.inr (.inl (s.execute_rob ▸ hv)))
    · rw [hdone] at hi
      obtain ⟨e, he, rfl⟩ := List.mem_map.mp hi
      exact .inr ⟨e, he, hview⟩
  have hcounted {e : ExlEntry} (he : e ∈ s.completing) : ∃ d ∈ s.exl, d.countDown s.cycle = e :=
    List.mem_map.mp (List.mem_of_mem_filter he)
  have hentry {e : ExlEntry} (d : Nat) : (e.countDown s.cycle).ins.exView.entry d = e.ins.exView.entry s.cycle :=
    congrArg (fun a : Option Nat => a.getD d) (e.countDown_cyc s.cycle)
  refine ⟨fun v hv => ?_, fun v hv r hr m hm => ?_⟩
  · rcases hsource hv with hv | ⟨e, he, rfl⟩
    · exact (h.finished v hv).trans (Nat.le_succ _)
    · obtain ⟨d, hd, rfl⟩ := hcounted he
      have hobs := (hexl.countDown _ (List.mem_map_of_mem hd)).observed
      obtain ⟨a, ha⟩ := hobs.stamped
      have hown := hobs.atStage.own a ha
      have hdur := (d.countDown s.cycle).ins.leave_dur_self .ex s.cycle a ha
      have hcyc := ((d.countDown s.cycle).ins.leave_cyc .ex .ex s.cycle).trans ha
      show ((d.countDown s.cycle).ins.leave .ex s.cycle |>.cyc .ex).getD 0 + ((d.countDown s.cycle).ins.leave .ex s.cycle).dur .ex ≤ _
      rw [hcyc, hdur, Option.getD_some]
      omega
  · obtain ⟨v', hv', hseq, hreads, hle⟩ :
        ∃ v', s.Issued v' ∧ v'.seq = v.seq ∧ v'.reads r ∧ v'.entry s.cycle ≤ v.entry (s.cycle + 1) := by
      have hfrom {d : ExlEntry} (hd : d ∈ s.exl) (hv : (d.countDown s.cycle).ins.exView.entry (s.cycle + 1) = v.entry (s.cycle + 1))
          (hseq : d.ins.seq = v.seq) (hr : d.ins.exView.reads r) :
          ∃ v', s.Issued v' ∧ v'.seq = v.seq ∧ v'.reads r ∧ v'.entry s.cycle ≤ v.entry (s.cycle + 1) :=
        ⟨_, .inr ⟨d, hd, rfl⟩, hseq, hr, ((hentry _).symm.trans hv).le⟩
      rcases hv with hv | ⟨e, he, rfl⟩
      · rcases hsource hv with hv | ⟨e, he, rfl⟩
        · exact ⟨v, .inl hv, rfl, hr, v.entry_mono (Nat.le_succ _)⟩
        · obtain ⟨d, hd, rfl⟩ := hcounted he
          exact hfrom hd (congrArg (fun a : Option Nat => a.getD _) ((d.countDown s.cycle).ins.leave_cyc .ex .ex s.cycle).symm) rfl hr
      · rw [hstay] at he
        obtain ⟨d, hd, rfl⟩ := List.mem_map.mp (List.mem_of_mem_filter he)
        exact hfrom hd rfl rfl hr
    have hm' : s.LastWriter v'.seq r m := by
      rw [hseq]
      exact hm.of_renamed fun k d _ => by rw [State.Renamed, State.Renamed, s.execute_out, s.execute_rob]
    obtain ⟨w, hw, hmw, hfin⟩ := h.waited v' hv' r hreads m hm'
    exact ⟨w, hkept hw, hmw, hfin.trans hle⟩

/-- The last writer of a source register of an instruction that holds no tag has finished (rules R36, R251). -/
theorem WakeupAmong.last_writer_finished {l : List InsRec} (h : WakeupAmong s l) (hflight : InFlight s) {x : IqSlot} (hx : x ∈ s.iq)
    (hs : x.selectable = true) {r : ArfIndex} (hr : x.ins.exView.reads r) {m : Nat} (hm : s.LastWriter x.ins.seq r m) :
    ∃ w, s.Finished w ∧ w.seq = m := by
  obtain ⟨hv, htag1, htag2⟩ := x.selectable_iff.mp hs
  rcases hm.writes with ⟨o, ho, hseq, -⟩ | ⟨y, hy, hvy, hseq, hdst⟩
  · exact ⟨o.exView, .inl ⟨o, ho, rfl⟩, hseq⟩
  · cases hry : y.ready with
    | true => exact ⟨y.ins.exView, .inr (.inl ⟨y, hy, hvy, hry, rfl⟩), hseq⟩
    | false =>
      obtain ⟨k, hk⟩ := List.mem_iff_getElem?.mp hy
      obtain ⟨i, hi, htag⟩ := hflight.present k y hk hvy hry
      obtain ⟨k', z, htag', hz, -, -, hsame, -⟩ := hflight.owns i hi
      obtain rfl : k = k' := Option.some.inj (htag.symm.trans htag')
      obtain rfl := Option.some.inj (hz.symm.trans hk)
      have hiseq : i.seq = m := hsame.seq.symm.trans hseq
      rcases mem_travelling.mp hi with hi | hi
      · have hlatest : LatestProducer s x.ins i r := by
          refine ⟨?_, hiseq ▸ hm.older, fun y' hy' hvy' hdst' hlt => ?_⟩
          · rw [← hsame.dst, ← hflight.slots _ hy hvy, hdst]
          · exact hiseq ▸ hm.last _ (.inr ⟨y', hy', hvy', rfl, hdst'⟩) hlt
        obtain ⟨h1, h2⟩ := h.enforced x.ins (mem_unfinished_of_mem_iq hx hv) i hi r hlatest
        rcases hr with hr | hr
        · exact absurd (htag1.symm.trans ((h1 hr).trans htag)) (by simp)
        · exact absurd (htag2.symm.trans ((h2 hr).trans htag)) (by simp)
      · exact ⟨i.exView, .inr (.inr ⟨i, hi, rfl⟩), hiseq⟩

theorem SourcesWaited.issue {l : List InsRec} (h : SourcesWaited s c) (hwake : WakeupAmong s l) (hflight : InFlight s)
    (hiq : QueueOnTime s.iq s.cycle) : SourcesWaited s.issue c := by
  have hfinished (v : ExView) : s.issue.Finished v ↔ s.Finished v := by
    rw [State.Finished, State.Finished, s.issue_out, s.issue_rob, s.issue_wb]
  refine ⟨fun v hv => h.finished v ((hfinished v).mp hv), fun v hv r hr m hm => ?_⟩
  have hm' : s.LastWriter v.seq r m := hm.of_renamed fun k d _ => by rw [State.Renamed, State.Renamed, s.issue_out, s.issue_rob]
  obtain ⟨w, hw, hmw, hle⟩ : ∃ w, s.Finished w ∧ w.seq = m ∧ w.finish ≤ v.entry c := by
    rcases hv with hv | ⟨e, he, rfl⟩
    · exact h.waited v (.inl ((hfinished v).mp hv)) r hr m hm'
    · unfold State.issue at he
      split at he
      · exact h.waited _ (.inr ⟨e, he, rfl⟩) r hr m hm'
      · obtain ⟨slots, new, hsel, hloop⟩ :=
          State.issueLoop_selections { s with iq := s.iq.map fun (x : IqSlot) => x.stampIssue s.cycle } s.cfg.width
        rw [hloop] at he
        rcases List.mem_append.mp he with he | he
        · exact h.waited _ (.inr ⟨e, he, rfl⟩) r hr m hm'
        · obtain ⟨y, hy, hs, rfl⟩ := hsel.mem_selectable he
          obtain ⟨x, hx, rfl⟩ := List.mem_map.mp hy
          rw [IqSlot.stampIssue_selectable] at hs
          have hview : ((x.stampIssue s.cycle).issued s.cycle).ins.exView = x.ins.exView := by
            rw [IqSlot.issued, IqSlot.stampIssue_ins]
            split <;> rfl
          rw [hview] at hr hm'
          obtain ⟨w, hw, hmw⟩ := hwake.last_writer_finished hflight hx hs hr hm'
          refine ⟨w, hw, hmw, (h.finished w hw).trans ?_⟩
          have hnone : x.ins.cyc .ex = none := (hiq x hx (x.selectable_iff.mp hs).1).later .ex (by decide)
          rw [hview]
          exact (congrArg (fun a : Option Nat => a.getD c) hnone).ge
  exact ⟨w, (hfinished w).mpr hw, hmw, hle⟩

/-! Rename -/

theorem SourcesWaited.renameHead {n : Nat} {i : InsRec} {b : List InsRec} (h : SourcesWaited s c) (hflight : InFlight s)
    (hready : RenameReady s n i b) : SourcesWaited (s.renameHead i b) c := by
  have hnew (P : RobSlot → Prop) : (∃ x ∈ (s.renameHead i b).rob, x.valid = true ∧ P x) ↔
      P { valid := true, ready := false, ins := i, dstArf := i.dst } ∨ ∃ x ∈ s.rob, x.valid = true ∧ P x := by
    constructor
    · rintro ⟨x, hx, hv, hp⟩
      rcases hready.mem_rob hx with rfl | hx
      · exact .inl hp
      · exact .inr ⟨x, hx, hv, hp⟩
    · rintro (hp | ⟨x, hx, hv, hp⟩)
      · obtain ⟨y, hy, -⟩ := hready.tail_free
        exact ⟨_, List.mem_of_getElem? ((hready.rob_get s.tail).trans (if_pos rfl)), rfl, hp⟩
      · obtain ⟨j, hj⟩ := List.mem_iff_getElem?.mp hx
        exact ⟨x, List.mem_of_getElem? (hready.rob_kept hj hv), hv, hp⟩
  refine h.of_finished_iff (fun v => or_congr_right (or_congr_left ?_)) rfl fun v hv k d hk => or_congr_right ?_
  · rw [hnew fun x => x.ready = true ∧ x.ins.exView = v]
    simp
  · have hyounger : v.seq < i.seq := by
      rcases hv with (⟨o, ho, rfl⟩ | ⟨x, hx, hvx, -, rfl⟩ | ⟨j, hj, rfl⟩) | ⟨e, he, rfl⟩
      · exact hready.younger_out ho
      · obtain ⟨j, hj⟩ := List.mem_iff_getElem?.mp hx
        exact hready.younger hj hvx
      · obtain ⟨k, x, -, hx, hvx, -, hsame, -⟩ := hflight.owns j (mem_travelling.mpr (.inr hj))
        exact hsame.seq.symm.trans_lt (hready.younger hx hvx)
      · obtain ⟨k, x, -, hx, hvx, -, hsame, -⟩ := hflight.owns_of_unfinished (mem_unfinished_of_mem_exl he)
        exact hsame.seq.symm.trans_lt (hready.younger hx hvx)
    rw [hnew fun x => x.ins.seq = k ∧ x.dstArf = d]
    exact or_iff_right fun hi => by have := hi.1; simp only at this; omega

theorem InFlight.stampedRn (h : InFlight s) : InFlight { s with rn := stampAll s.rn .rn s.cycle } := by
  refine h.of_cores (.refl _) rfl (NoTags.of_sources h.front fun i hi => ?_)
  rcases List.mem_append.mp hi with hi | hi
  · obtain ⟨j, hj, rfl⟩ := List.mem_map.mp hi
    exact ⟨j, List.mem_append_left _ hj, rfl, rfl, rfl⟩
  · exact ⟨i, List.mem_append_right _ hi, rfl, rfl, rfl⟩

theorem SourcesWaited.rename (h : SourcesWaited s c) (hsized : Sized s) (hpo : ProgramOrder s) (hflight : InFlight s) :
    SourcesWaited s.rename c :=
  (rename_induction (P := fun u => InFlight u ∧ SourcesWaited u c) hsized hpo
    ⟨hflight.stampedRn, h.of_backend_eq rfl rfl rfl rfl⟩
    fun _ _ _ _ hready ⟨hf, hw⟩ => ⟨hf.renameHead hready, hw.renameHead hf hready⟩).2.2.2

/-! The step -/

theorem SourcesWaited.stages (h : SourcesWaited s s.cycle) (hsound : Sound s) : SourcesWaited s.stages (s.cycle + 1) := by
  obtain ⟨hsized, hpo, -, htimed, -, hflight, hwakeup⟩ := hsound
  have hcycle : s.retire.writeback.cycle = s.cycle := by simp
  have hflight' := (hflight.retire hsized hpo).writeback hsized.retire (hpo.retire hsized)
  have hwritten := (h.retire hsized hpo hflight).writeback hsized.retire (hpo.retire hsized) (hflight.retire hsized hpo)
  have hexl : ExlOnTime s.retire.writeback.exl s.retire.writeback.cycle := by
    rw [hcycle, State.writeback_exl, State.retire_exl]
    exact htimed.exl
  have hexecuted := SourcesWaited.execute (hcycle.symm ▸ hwritten) hexl rfl htimed.completing_le
  have hwake := ((hwakeup.retire hsized hpo hflight).writeback hsized.retire (hpo.retire hsized)
    (hflight.retire hsized hpo)).execute hflight' rfl htimed.completing_le
  have hiq : QueueOnTime s.retire.writeback.execute.iq s.retire.writeback.execute.cycle := by
    rw [State.execute_cycle, hcycle]
    refine QueueOnTime.of_times_eq (q := s.retire.writeback.iq) ?_ (State.execute_times _).2.2
    rw [State.writeback_iq, State.retire_iq]
    exact htimed.iq
  have hissued := hexecuted.issue hwake hflight'.execute hiq
  have hread : SourcesWaited s.retire.writeback.execute.issue.dispatch.regRead (s.cycle + 1) :=
    (hcycle ▸ hissued).of_backend_eq (by simp) (by simp) (by simp) (by simp)
  have hrenamed := hread.rename hsized.retire.writeback.execute.issue.dispatch.regRead
    (hpo.retire hsized).writeback.execute.issue.dispatch.regRead hflight'.execute.issue.dispatch.regRead
  rw [State.stages]
  exact hrenamed.of_backend_eq (State.decode_out _) (State.decode_rob _) (State.decode_wb _) (State.decode_exl _)

theorem SourcesWaited.step (h : SourcesWaited s s.cycle) (hsound : Sound s) (hstep : step s = .next t) : SourcesWaited t t.cycle := by
  obtain ⟨-, ⟨-, rfl⟩ | ⟨-, u, hu, rfl⟩⟩ := step_cases hstep
  · exact h
  · have hcycle : u.cycle = s.cycle := (fetch_cycle hu).trans s.stages_cycle
    show SourcesWaited u.advance (u.cycle + 1)
    have hframe := fetch_frame hu
    rw [hcycle]
    exact (h.stages hsound).of_backend_eq (show u.out = _ by rw [hframe]) (show u.rob = _ by rw [hframe])
      (show u.wb = _ by rw [hframe]) (show u.exl = _ by rw [hframe])

end

theorem sourcesWaited_start (cfg : Config) (trace : List TraceLine) : SourcesWaited (State.start cfg trace) 0 := by
  have hnone (v : ExView) : ¬ (State.start cfg trace).Finished v := by
    rintro (⟨o, ho, -⟩ | ⟨x, hx, hv, -⟩ | ⟨i, hi, -⟩)
    · cases ho
    · obtain rfl := List.eq_of_mem_replicate hx
      cases hv
    · cases hi
  refine ⟨fun v hv => absurd hv (hnone v), fun v hv => ?_⟩
  rcases hv with hv | ⟨e, he, -⟩
  · exact absurd hv (hnone v)
  · cases he

theorem Reachable.sourcesWaited {s : State} (h : Reachable s) : SourcesWaited s s.cycle :=
  (reachable_induction (P := fun s => SourcesWaited s s.cycle) (fun cfg trace _ => sourcesWaited_start cfg trace)
    (fun hs hp hst => hp.step hs hst) h).2

/-- A finished record with the number of an emitted one is that one: the others are younger. -/
theorem State.Finished.of_emitted {s : State} (hsound : Sound s) {v : ExView} (hv : s.Finished v) {p : TimingRecord}
    (hp : s.out[v.seq]? = some p) : v = p.exView := by
  obtain ⟨n, hn⟩ := programOrder_iff.mp hsound.order
  have hlt : v.seq < s.out.length := (List.getElem?_eq_some_iff.mp hp).1
  have hslot {k : Nat} {x : RobSlot} (hx : s.rob[k]? = some x) (hvx : x.valid = true) : x.ins.seq ≠ v.seq := by
    obtain ⟨j, -, -, hseq⟩ := hn.valid_seq hsound.sized.rob hx hvx
    omega
  rcases hv with ⟨o, ho, rfl⟩ | ⟨x, hx, hvx, -, rfl⟩ | ⟨i, hi, rfl⟩
  · obtain ⟨k, hk⟩ := List.mem_iff_getElem?.mp ho
    have hseq : o.exView.seq = k := hn.out_seq hk
    rw [hseq, hk] at hp
    exact congrArg TimingRecord.exView (Option.some.inj hp)
  · obtain ⟨k, hk⟩ := List.mem_iff_getElem?.mp hx
    exact absurd rfl (hslot hk hvx)
  · obtain ⟨k, x, -, hx, hvx, -, hsame, -⟩ := hsound.flight.owns i (mem_travelling.mpr (.inr hi))
    exact absurd hsame.seq (hslot hx hvx)

/-- Settles O60: the last emitted writer before `c` is the last writer of the invariant, and the stamps of emitted records are
linked. -/
theorem readAfterWriteWaits : Obligations.ReadAfterWriteWaits := by
  intro s m n p c r hs hp hc hmn hdst hreads hlast
  have hsound := hs.sound
  obtain ⟨count, hn⟩ := programOrder_iff.mp hsound.order
  have hpseq := hn.out_seq hp
  have hcseq := hn.out_seq hc
  have hnout : n < s.out.length := (List.getElem?_eq_some_iff.mp hc).1
  have hwriter : s.LastWriter c.exView.seq r m := by
    refine ⟨.inl ⟨p, List.mem_of_getElem? hp, hpseq, hdst⟩, hmn.trans_eq hcseq.symm, fun k hk hlt => ?_⟩
    have hlt' : k < n := hcseq ▸ hlt
    rcases hk with ⟨o, ho, rfl, hdo⟩ | ⟨x, hx, hv, hseq, -⟩
    · obtain ⟨k, hk⟩ := List.mem_iff_getElem?.mp ho
      have hok := hn.out_seq hk
      by_contra hmk
      exact hlast k o (by omega) (by omega) hk hdo
    · obtain ⟨j, hj⟩ := List.mem_iff_getElem?.mp hx
      obtain ⟨i, -, -, hslot⟩ := hn.valid_seq hsound.sized.rob hj hv
      omega
  obtain ⟨w, hw, hwm, hle⟩ := hs.sourcesWaited.waited c.exView (.inl (.inl ⟨c, List.mem_of_getElem? hc, rfl⟩)) r hreads m hwriter
  obtain rfl : w = p.exView := hw.of_emitted hsound (hwm ▸ hp)
  have hpcomplete := hsound.timed.out p (List.mem_of_getElem? hp)
  obtain ⟨e, he, -, hb⟩ := hpcomplete.linked .ex .wb rfl
  obtain ⟨a, ha, -⟩ := (hsound.timed.out c (List.mem_of_getElem? hc)).linked .ex .wb rfl
  have hfinish : p.exView.finish = e + (p.times.get .ex).dur := congrArg (fun a : Option Nat => a.getD 0 + _) he
  have hentry : c.exView.entry s.cycle = a := congrArg (fun a : Option Nat => a.getD s.cycle) ha
  rw [hfinish, hentry] at hle
  have hlat : e + latency p.op ≤ a := hpcomplete.execute ▸ hle
  exact ⟨e, _, a, he, hb, ha, hle, (Nat.add_le_add_left (latency_eq p.op).ge e).trans hlat⟩

end Sys2Proof.Machine
end

section
/-!
PROOFS. A weight for the work in flight: a record counts for the stages it still has to pass, one in EXL also for the cycles it still
has to execute. No stage adds to it, and each says when it takes some away. Of use for the bound of rule R249.
-/

namespace Sys2Proof.Machine

/-- How many slots wait for their turn to retire. -/
def readyCount (rob : List RobSlot) : Nat := rob.countP fun x => x.valid && x.ready

/-- The work in flight. -/
def State.load (s : State) : Nat :=
  12 * s.de.length + 11 * s.rn.length + 10 * s.rr.length + 9 * s.di.length + 8 * (queued s.iq).length +
    (s.exl.map fun e => e.rem + 2).sum + 2 * s.wb.length + readyCount s.rob

section
variable {s : State}

/-! Retire and Writeback -/

theorem readyCount_set_freed {rob : List RobSlot} {k : Nat} {x : RobSlot} (hx : rob[k]? = some x) (hv : x.valid = true)
    (hr : x.ready = true) : readyCount (rob.set k { x with valid := false }) + 1 = readyCount rob := by
  obtain ⟨hk, hget⟩ := List.getElem?_eq_some_iff.mp hx
  have hpos : 0 < readyCount rob := List.countP_pos_iff.mpr ⟨x, List.mem_of_getElem? hx, by simp [hv, hr]⟩
  simp only [readyCount] at hpos ⊢
  rw [List.countP_set (h := hk)]
  simp [hget, hv, hr]
  omega

theorem State.load_retireOne {x : RobSlot} (hx : s.rob[s.head]? = some x) (hv : x.valid = true) (hr : x.ready = true) :
    (s.retireOne x).load + 1 = s.load := by
  have hcount := readyCount_set_freed hx hv hr
  simp only [State.load, State.retireOne_de, State.retireOne_rn, State.retireOne_rr, State.retireOne_di, State.retireOne_iq,
    State.retireOne_exl, State.retireOne_wb, State.retireOne_rob]
  omega

theorem State.load_retireLoop_le (s : State) (n : Nat) : (s.retireLoop n).load ≤ s.load :=
  State.retireLoop_induction (P := fun t => t.load ≤ s.load)
    (fun t x h hx hv hr => by have := State.load_retireOne hx hv hr; omega) (Nat.le_refl _) n

theorem State.load_stampedForRetire (s : State) : s.stampedForRetire.load = s.load := by
  simp [State.load, State.stampedForRetire, readyCount, List.countP_map, Function.comp_def]

theorem State.load_retire_le (s : State) : s.retire.load ≤ s.load := by
  rw [State.retire_eq, ← s.load_stampedForRetire]
  exact State.load_retireLoop_le ..

/-- A ready head retires (rule R176). -/
theorem State.load_retire_lt {x : RobSlot} (hwidth : 0 < s.cfg.width) (hx : s.rob[s.head]? = some x) (hv : x.valid = true)
    (hr : x.ready = true) : s.retire.load < s.load := by
  obtain ⟨n, hn⟩ : ∃ n, s.cfg.width = n + 1 := ⟨s.cfg.width - 1, by omega⟩
  have hx' : s.stampedForRetire.rob[s.stampedForRetire.head]? = some (x.stampRetire s.cycle) := by
    show (s.rob.map fun x => x.stampRetire s.cycle)[s.head]? = _
    rw [List.getElem?_map, hx, Option.map_some]
  have hv' : (x.stampRetire s.cycle).valid = true := (x.stampRetire_valid _).trans hv
  have hr' : (x.stampRetire s.cycle).ready = true := (x.stampRetire_ready _).trans hr
  have hone := State.load_retireOne hx' hv' hr'
  rw [State.retire_eq, hn, State.retireLoop_succ_of_ready hx' (by rw [hv', hr']; rfl), ← s.load_stampedForRetire]
  have hrest := State.load_retireLoop_le (s.stampedForRetire.retireOne (x.stampRetire s.cycle)) n
  omega

theorem readyCount_writebackRob_le (rob : List RobSlot) (i : InsRec) : readyCount (writebackRob rob i) ≤ readyCount rob + 1 := by
  induction rob with
  | nil => simp [writebackRob, readyCount]
  | cons x rob ih =>
    simp only [readyCount] at ih
    simp only [writebackRob, readyCount]
    split
    · simp only [List.countP_cons]
      split <;> split <;> omega
    · simp only [List.countP_cons]
      omega

theorem readyCount_writebackAll_le (c : Nat) (b : List InsRec) (rob : List RobSlot) :
    readyCount (writebackAll c b rob) ≤ readyCount rob + b.length := by
  induction b generalizing rob with
  | nil => exact Nat.le_refl _
  | cons i b ih =>
    have hone := readyCount_writebackRob_le rob (i.leave .wb c)
    have hrest := ih (writebackRob rob (i.leave .wb c))
    rw [writebackAll, List.length_cons]
    omega

theorem State.load_writeback_le (s : State) : s.writeback.load + s.wb.length ≤ s.load := by
  have hcount := readyCount_writebackAll_le s.cycle (stampAll s.wb .wb s.cycle) s.rob
  rw [stampAll_length] at hcount
  simp only [State.load, State.writeback, List.length_nil]
  omega

/-! Execute and Issue -/

/-- The entries of a pass weigh the same when those at 0 have gone to WB. -/
theorem sum_load_filter (l : List ExlEntry) :
    ((l.filter fun e => decide (e.rem ≠ 0)).map fun e => e.rem + 2).sum + 2 * (l.filter fun e => decide (e.rem = 0)).length =
      (l.map fun e => e.rem + 2).sum := by
  induction l with
  | nil => rfl
  | cons e l ih =>
    by_cases h : e.rem = 0 <;> simp [h] at ih ⊢ <;> omega

theorem sum_load_countDown {l : List ExlEntry} (h : ∀ e ∈ l, 1 ≤ e.rem) (c : Nat) :
    ((l.map fun e => e.countDown c).map fun e => e.rem + 2).sum + l.length = (l.map fun e => e.rem + 2).sum := by
  induction l with
  | nil => rfl
  | cons e l ih =>
    obtain ⟨he, hl⟩ := List.forall_mem_cons.mp h
    have hrest := ih hl
    have hrem : (e.countDown c).rem = e.rem - 1 := rfl
    simp only [List.map_cons, List.sum_cons, List.length_cons, hrem]
    omega

/-- Execute takes a cycle off every entry. -/
theorem State.load_execute (hrem : ∀ e ∈ s.exl, 1 ≤ e.rem) (hroom : s.wb.length + s.completing.length ≤ 5 * s.cfg.width) :
    s.execute.load + s.exl.length = s.load := by
  obtain ⟨hstay, hdone⟩ := State.execute_of_enough_room hroom
  have hsum := sum_load_countDown hrem s.cycle
  have hfilter := sum_load_filter (s.exl.map fun e => e.countDown s.cycle)
  have hqueued : (queued s.execute.iq).length = (queued s.iq).length := by
    rw [s.execute_frame]
    simpa using congrArg List.length (map_queued (g := InsRec.seq)
      (f := fun x => x.wakeAll (s.completing.map fun e => e.ins.dstTag)) (fun x => x.wakeAll_valid _)
      (fun x hv => by rw [x.wakeAll_of_valid hv]; rfl) s.iq)
  have hrr : s.execute.rr.length = s.rr.length := by rw [s.execute_frame]; exact List.length_map ..
  have hdi : s.execute.di.length = s.di.length := by rw [s.execute_frame]; exact List.length_map ..
  have hlen : s.completing.length = ((s.exl.map fun e => e.countDown s.cycle).filter fun e => decide (e.rem = 0)).length := rfl
  simp only [State.load, s.execute_de, s.execute_rn, hrr, hdi, hqueued, hstay, hdone, s.execute_rob, List.length_append,
    List.length_map]
  omega

/-- Issue takes a ready entry where there is one, and leaves less of it to do. -/
theorem State.load_issue_le (s : State) : s.issue.load ≤ s.load ∧
    (s.exl.length < 5 * s.cfg.width → 0 < s.cfg.width → (∃ x ∈ s.iq, x.selectable = true) → s.issue.load < s.load) := by
  by_cases hfull : s.exl.length < 5 * s.cfg.width
  · obtain ⟨slots, l, hsel, hloop⟩ :=
      State.issueLoop_selections { s with iq := s.iq.map fun (x : IqSlot) => x.stampIssue s.cycle } s.cfg.width
    have hperm := (hsel.perm (g := InsRec.seq) fun _ => rfl).length_eq
    have hqueued : (queued (s.iq.map fun x => x.stampIssue s.cycle)).length = (queued s.iq).length := by
      simpa using congrArg List.length (map_queued (g := InsRec.seq) (f := fun x => x.stampIssue s.cycle)
        (fun x => x.stampIssue_valid _) (fun x hv => by rw [x.stampIssue_ins, if_pos hv]; rfl) s.iq)
    have hsum : (l.map fun e => e.rem + 2).sum ≤ 7 * l.length := by
      refine (List.sum_le_card_nsmul _ 7 fun a ha => ?_).trans (by simp [Nat.mul_comm])
      obtain ⟨e, he, rfl⟩ := List.mem_map.mp ha
      obtain ⟨x, -, -, rfl⟩ := hsel.mem he
      have hlat := latency_le x.ins.op
      simp only [IqSlot.issued]
      omega
    simp only [List.length_append, List.length_map, hqueued] at hperm
    have hload : s.issue.load + l.length ≤ s.load := by
      rw [State.issue_of_open hfull, hloop]
      simp only [State.load, List.map_append, List.sum_append]
      omega
    refine ⟨by omega, fun _ hwidth ⟨x, hx, hs⟩ => ?_⟩
    have hpos : 0 < l.length := by
      by_contra hzero
      obtain ⟨k, hk⟩ := List.mem_iff_getElem?.mp hx
      have hmem := hsel.exhausted (by omega) (k := k) (x := x.stampIssue s.cycle) (by simp [hk]) (by simpa using hs)
      have hlen := hsel.length_eq
      rw [List.length_eq_zero_iff.mp (by omega : slots.length = 0)] at hmem
      cases hmem
    omega
  · have hsame : s.issue = s := if_pos (decide_eq_true (by simpa using hfull))
    rw [hsame]
    exact ⟨Nat.le_refl _, fun h => absurd h hfull⟩

/-! The front end -/

theorem State.dispatch_counts (s : State) : s.dispatch.di.length + (queued s.dispatch.iq).length = s.di.length + (queued s.iq).length := by
  have hperm := (s.dispatch_unfinished_perm (g := InsRec.core) (fun _ _ => rfl) fun _ => rfl).length_eq
  simp only [State.unfinished_eq, List.length_map, List.length_append, State.dispatch_rr, State.dispatch_exl] at hperm
  omega

theorem State.dispatch_di_le (s : State) : s.dispatch.di.length ≤ s.di.length := by
  have hloop (u : State) (b : List InsRec) : (u.dispatchLoop b).di.length ≤ b.length := by
    induction b generalizing u with
    | nil => exact Nat.le_refl 0
    | cons i b ih =>
      simp only [State.dispatchLoop]
      split
      · exact Nat.le_refl _
      · exact (ih _).trans (Nat.le_succ _)
  unfold State.dispatch
  split
  · exact (hloop _ _).trans (stampAll_length ..).le
  · exact (stampAll_length ..).le

theorem State.load_dispatch (s : State) : s.dispatch.load + s.di.length = s.load + s.dispatch.di.length := by
  have hcounts := s.dispatch_counts
  simp only [State.load, State.dispatch_de, State.dispatch_rn, State.dispatch_rr, State.dispatch_exl, State.dispatch_wb,
    State.dispatch_rob]
  omega

theorem State.load_dispatch_le (s : State) : s.dispatch.load ≤ s.load := by
  have hload := s.load_dispatch
  have hdi := s.dispatch_di_le
  omega

theorem State.load_regRead (s : State) : s.regRead.load + min (s.cfg.width - s.di.length) s.rr.length = s.load := by
  rw [s.regRead_eq]
  simp only [State.load, List.length_drop, List.length_append, List.length_map, List.length_take, stampAll_length]
  omega

/-- An allocated slot is not ready, whatever it was. -/
theorem readyCount_set_allocated_le (rob : List RobSlot) (k : Nat) (i : InsRec) :
    readyCount (rob.set k { valid := true, ready := false, ins := i, dstArf := i.dst }) ≤ readyCount rob := by
  by_cases hk : k < rob.length
  · simp only [readyCount]
    rw [List.countP_set (h := hk)]
    simp
  · rw [List.set_eq_of_length_le (Nat.le_of_not_lt hk)]

theorem State.load_renameLoop (s : State) (b : List InsRec) :
    (s.renameLoop b).load + min (s.cfg.width - s.rr.length) b.length ≤ { s with rn := b : State }.load := by
  induction b generalizing s with
  | nil => simp [State.renameLoop]
  | cons i b ih =>
    simp only [State.renameLoop]
    split
    next hroom =>
      have hlt := (s.room_iff s.rr).mp hroom
      have hrest := ih (s.renameOne i)
      have hcount := readyCount_set_allocated_le s.rob s.tail i
      simp only [State.load, State.renameOne_de, State.renameOne_rr, State.renameOne_di, State.renameOne_iq, State.renameOne_exl,
        State.renameOne_wb, State.renameOne_rob, State.renameOne_cfg, List.length_append, List.length_cons, List.length_nil] at hrest ⊢
      omega
    next hroom =>
      have hge : ¬ s.rr.length < s.cfg.width := fun hlt => hroom ((s.room_iff s.rr).mpr hlt)
      have hzero : s.cfg.width - s.rr.length = 0 := by omega
      simp [hzero]

/-- Rename moves what RR has room for, once the ROB admits a group (rule R131). -/
theorem State.load_rename_le (s : State) : s.rename.load ≤ s.load ∧
    (s.cfg.width ≤ s.robFree → s.rename.load + min (s.cfg.width - s.rr.length) s.rn.length ≤ s.load) := by
  have hstamp : ({ s with rn := stampAll s.rn .rn s.cycle } : State).load = s.load := by simp [State.load]
  by_cases hfree : s.robFree < s.cfg.width
  · rw [State.rename_of_full hfree, hstamp]
    exact ⟨Nat.le_refl _, fun h => absurd h (Nat.not_le.mpr hfree)⟩
  · have hopen : s.robAdmits = true := decide_eq_true (by omega)
    have hrename : s.rename = s.renameLoop (stampAll s.rn .rn s.cycle) := by simp [State.rename, hopen]
    have hload := s.load_renameLoop (stampAll s.rn .rn s.cycle)
    rw [hstamp, stampAll_length] at hload
    rw [hrename]
    exact ⟨by omega, fun _ => hload⟩

theorem State.load_decode (s : State) : s.decode.load + min (s.cfg.width - s.rn.length) s.de.length = s.load := by
  rw [s.decode_eq]
  simp only [State.load, List.length_drop, List.length_append, List.length_map, List.length_take, stampAll_length]
  omega

/-- Fetch adds 12 for each instruction (rule R121). -/
theorem load_fetch {t : State} (hfetch : fetch s = .next t) : t.load + 12 * s.seqNext = s.load + 12 * t.seqNext := by
  rcases fetch_cases hfetch with ⟨-, rfl⟩ | ⟨hlatch, -⟩
  · rfl
  · obtain ⟨l, lines, rest, htakes⟩ := fetch_takes hlatch hfetch
    rw [htakes.result]
    simp only [State.load, List.length_append, List.length_map, List.length_zipIdx]
    omega

end

end Sys2Proof.Machine
end

section
/-!
PROOFS. Every tick with work in flight takes some of it away (rule R249), because the oldest waiting instruction can always go on. For
that the IQ must be older than DI and RR, which the invariant `InOrder` says: O55.
-/

namespace Sys2Proof.Machine

/-! The order of DI, RR and the IQ -/

section
variable {s t : State}

/-- The sequence numbers that wait for Dispatch, oldest first. -/
def State.undispatched (s : State) : List Nat := (s.di ++ s.rr).map (·.seq)

/-- DI and behind it RR are in program order, and every instruction in the IQ is older (rule R241). -/
structure InOrder (s : State) : Prop where
  sorted : s.undispatched.Pairwise (· < ·)
  queue : ∀ x ∈ s.iq, x.valid = true → ∀ m ∈ s.undispatched, x.ins.seq < m

theorem InOrder.of_seqs (h : InOrder s) (hseqs : t.undispatched = s.undispatched)
    (hiq : ∀ x ∈ t.iq, x.valid = true → ∃ y ∈ s.iq, y.valid = true ∧ x.ins.seq = y.ins.seq) : InOrder t where
  sorted := hseqs ▸ h.sorted
  queue x hx hv m hm := by
    obtain ⟨y, hy, hvy, hseq⟩ := hiq x hx hv
    exact hseq ▸ h.queue y hy hvy m (hseqs ▸ hm)

theorem InOrder.of_view (h : InOrder s) (hdi : t.di = s.di) (hrr : t.rr = s.rr) (hiq : t.iq = s.iq) : InOrder t :=
  h.of_seqs (by rw [State.undispatched, State.undispatched, hdi, hrr]) fun x hx hv => ⟨x, hiq ▸ hx, hv, rfl⟩

theorem InOrder.execute (h : InOrder s) : InOrder s.execute := by
  rw [s.execute_frame]
  refine h.of_seqs ?_ fun x hx hv => ?_
  · rw [State.undispatched, State.undispatched, ← List.map_append, List.map_map]
    rfl
  · obtain ⟨y, hy, rfl⟩ := List.mem_map.mp hx
    rw [y.wakeAll_valid] at hv
    exact ⟨y, hy, hv, by rw [y.wakeAll_of_valid hv]; rfl⟩

theorem InOrder.issue (h : InOrder s) : InOrder s.issue := by
  refine h.of_seqs (by rw [State.undispatched, State.undispatched, s.issue_di, s.issue_rr]) fun x hx hv => ?_
  unfold State.issue at hx
  split at hx
  · exact ⟨x, hx, hv, rfl⟩
  · obtain ⟨slots, l, -, hloop⟩ :=
      State.issueLoop_selections { s with iq := s.iq.map fun (x : IqSlot) => x.stampIssue s.cycle } s.cfg.width
    rw [hloop] at hx
    obtain ⟨y, hy, hvy, hins⟩ := mem_freeAll hx hv
    obtain ⟨z, hz, rfl⟩ := List.mem_map.mp hy
    rw [z.stampIssue_valid] at hvy
    exact ⟨z, hz, hvy, by rw [hins, z.stampIssue_ins, if_pos hvy]; rfl⟩

/-- Dispatch moves the whole of DI, which is older than RR (rule R143). -/
theorem InOrder.dispatch (h : InOrder s) (hsized : Sized s) : InOrder s.dispatch := by
  rcases s.dispatch_all_or_nothing hsized.di with ⟨hdi, hadmits⟩ | hsame
  · have hsplit : s.undispatched = s.di.map (·.seq) ++ s.rr.map (·.seq) := List.map_append
    have hrest : s.dispatch.undispatched = s.rr.map (·.seq) := by rw [State.undispatched, hdi, s.dispatch_rr]; rfl
    obtain ⟨-, hrr, hacross⟩ := List.pairwise_append.mp (hsplit ▸ h.sorted)
    refine ⟨hrest ▸ hrr, fun x hx hv m hm => ?_⟩
    rw [hrest] at hm
    rw [State.dispatch_of_admits hadmits] at hx
    rcases (s.mem_dispatchLoop _).2 x hx with hx | ⟨i, hi, rfl⟩
    · exact h.queue x hx hv m (hsplit ▸ List.mem_append_right _ hm)
    · obtain ⟨j, hj, rfl⟩ := List.mem_map.mp hi
      exact hacross _ (List.mem_map_of_mem hj) m hm
  · rw [hsame]
    refine h.of_seqs ?_ fun x hx hv => ⟨x, hx, hv, rfl⟩
    rw [State.undispatched, State.undispatched, List.map_append, List.map_append, map_seq_stampAll]

theorem InOrder.regRead (h : InOrder s) : InOrder s.regRead := by
  refine h.of_seqs ?_ fun x hx hv => ⟨x, hx, hv, rfl⟩
  have hread (l : List InsRec) : (l.map fun i => i.regRead s.rob s.cycle).map (fun i => i.seq) = l.map fun i => i.seq := by
    rw [List.map_map]
    rfl
  rw [s.regRead_eq, State.undispatched, State.undispatched]
  show (s.di ++ ((stampAll s.rr .rr s.cycle).take _).map _ ++ (stampAll s.rr .rr s.cycle).drop _).map (fun i : InsRec => i.seq) = _
  rw [List.map_append, List.map_append, List.append_assoc, hread, ← List.map_append, List.take_append_drop, map_seq_stampAll,
    List.map_append]

theorem InOrder.renameHead {n : Nat} {i : InsRec} {b : List InsRec} (h : InOrder s) (hflight : InFlight s)
    (hready : RenameReady s n i b) : InOrder (s.renameHead i b) := by
  have hyounger {j : InsRec} (hj : j ∈ s.unfinished) : j.seq < i.seq := by
    obtain ⟨k, x, -, hx, hv, -, hsame, -⟩ := hflight.owns_of_unfinished hj
    exact hsame.seq.symm.trans_lt (hready.younger hx hv)
  have hseqs : (s.renameHead i b).undispatched = s.undispatched ++ [i.seq] := by
    show (s.di ++ (s.rr ++ [i.renamed s.rmt s.tail s.cycle])).map (·.seq) = _
    rw [← List.append_assoc, List.map_append]
    rfl
  refine ⟨?_, fun x hx hv m hm => ?_⟩
  · rw [hseqs]
    refine List.pairwise_append.mpr ⟨h.sorted, List.pairwise_singleton .., fun m hm k hk => ?_⟩
    obtain rfl := List.mem_singleton.mp hk
    obtain ⟨j, hj, rfl⟩ := List.mem_map.mp hm
    rcases List.mem_append.mp hj with hj | hj
    · exact hyounger (mem_unfinished_of_mem_di hj)
    · exact hyounger (mem_unfinished_of_mem_rr hj)
  · rw [hseqs] at hm
    rcases List.mem_append.mp hm with hm | hm
    · exact h.queue x hx hv m hm
    · obtain rfl := List.mem_singleton.mp hm
      exact hyounger (mem_unfinished_of_mem_iq (s := s) hx hv)

theorem InOrder.rename (h : InOrder s) (hsized : Sized s) (hpo : ProgramOrder s) (hflight : InFlight s) : InOrder s.rename :=
  (rename_induction (P := fun u => InFlight u ∧ InOrder u) hsized hpo ⟨hflight.stampedRn, h.of_view rfl rfl rfl⟩
    fun _ _ _ _ hready ⟨hf, hi⟩ => ⟨hf.renameHead hready, hi.renameHead hf hready⟩).2.2.2

theorem InOrder.stages (h : InOrder s) (hsound : Sound s) : InOrder s.stages := by
  obtain ⟨hsized, hpo, -, -, -, hflight, -⟩ := hsound
  have hwritten : InOrder s.retire.writeback := h.of_view (by simp) (by simp) (by simp)
  have hflight' := (hflight.retire hsized hpo).writeback hsized.retire (hpo.retire hsized)
  have hread := (hwritten.execute.issue.dispatch hsized.retire.writeback.execute.issue).regRead
  have hrenamed := hread.rename hsized.retire.writeback.execute.issue.dispatch.regRead
    (hpo.retire hsized).writeback.execute.issue.dispatch.regRead hflight'.execute.issue.dispatch.regRead
  rw [State.stages]
  exact hrenamed.of_view (State.decode_di _) (State.decode_rr _) (State.decode_iq _)

theorem InOrder.fetch (h : InOrder s) (hfetch : fetch s = .next t) : InOrder t := by
  rw [fetch_frame hfetch]
  exact h.of_view rfl rfl rfl

theorem InOrder.step (h : InOrder s) (hsound : Sound s) (hstep : step s = .next t) : InOrder t :=
  step_keeps_of (fun _ => h.stages hsound) InOrder.fetch (fun h => h.of_view rfl rfl rfl) h hstep

/-! Progress -/

/-- The oldest instruction of the IQ holds no tag, where EXL is empty: its producers would be older still (rules R36, R238). -/
theorem WakeupSound.exists_selectable (h : WakeupSound s) (horder : InOrder s) (hexl : s.exl = []) {x : IqSlot} (hx : x ∈ s.iq)
    (hv : x.valid = true) : ∃ y ∈ s.iq, y.selectable = true := by
  classical
  have hsome : ∃ m, ∃ y ∈ s.iq, y.valid = true ∧ y.ins.seq = m := ⟨_, x, hx, hv, rfl⟩
  obtain ⟨y, hy, hvy, hmin⟩ := Nat.find_spec hsome
  have hleast {z : IqSlot} (hz : z ∈ s.iq) (hvz : z.valid = true) : y.ins.seq ≤ z.ins.seq :=
    hmin ▸ Nat.find_min' hsome ⟨z, hz, hvz, rfl⟩
  have hnone (r : ArfIndex) (k : Nat) : ¬ HoldsTag y.ins r k := by
    intro hk
    obtain ⟨-, p, hp, -, -, hlt⟩ := h.iq y hy hvy r k hk
    have hyounger {i : InsRec} (hi : i ∈ s.di ++ s.rr) : y.ins.seq < i.seq := horder.queue y hy hvy _ (List.mem_map_of_mem hi)
    rcases mem_unfinished.mp hp with hp | hp | ⟨z, hz, hvz, rfl⟩ | ⟨e, he, -⟩
    · exact absurd (hyounger (List.mem_append_right _ hp)) (by omega)
    · exact absurd (hyounger (List.mem_append_left _ hp)) (by omega)
    · exact absurd (hleast hz hvz) (by omega)
    · rw [hexl] at he
      cases he
  obtain ⟨h1, h2⟩ := h.source y.ins (mem_unfinished_of_mem_iq hy hvy)
  refine ⟨y, hy, y.selectable_iff.mpr ⟨hvy, ?_, ?_⟩⟩
  · cases hs : y.ins.src1 with
    | none => exact h1 hs
    | some r => exact Option.eq_none_iff_forall_ne_some.mpr fun k hk => hnone r k (.inl ⟨hs, hk⟩)
  · cases hs : y.ins.src2 with
    | none => exact h2 hs
    | some r => exact Option.eq_none_iff_forall_ne_some.mpr fun k hk => hnone r k (.inr ⟨hs, hk⟩)

theorem Config.live_iff (c : Config) : c.live = true ↔ c.wellFormed = true ∧ c.width ≤ c.robSize ∧ c.width ≤ c.iqSize := by
  simp [Config.live, and_assoc]

theorem State.iqFree_of_none_valid (h : ∀ x ∈ s.iq, x.valid = false) : s.iqFree = s.iq.length :=
  List.countP_eq_length.mpr fun x hx => by simp [h x hx]

theorem State.robFree_of_none_valid (h : ∀ x ∈ s.rob, x.valid = false) : s.robFree = s.rob.length :=
  List.countP_eq_length.mpr fun x hx => by simp [h x hx]

/-- The work in flight through the eight stages. -/
structure LoadChain (s : State) : Prop where
  retire : s.retire.load ≤ s.load
  writeback : s.retire.writeback.load + s.wb.length ≤ s.retire.load
  execute : s.retire.writeback.execute.load + s.exl.length = s.retire.writeback.load
  issue : s.retire.writeback.execute.issue.load ≤ s.retire.writeback.execute.load
  dispatch : s.retire.writeback.execute.issue.dispatch.load ≤ s.retire.writeback.execute.issue.load
  regRead : s.retire.writeback.execute.issue.dispatch.regRead.load ≤ s.retire.writeback.execute.issue.dispatch.load
  rename : s.retire.writeback.execute.issue.dispatch.regRead.rename.load ≤ s.retire.writeback.execute.issue.dispatch.regRead.load
  decode : s.stages.load ≤ s.retire.writeback.execute.issue.dispatch.regRead.rename.load

theorem Timed.loadChain (h : Timed s) : LoadChain s where
  retire := s.load_retire_le
  writeback := by simpa using s.retire.load_writeback_le
  execute := by
    have hexl : s.retire.writeback.exl = s.exl := by simp
    have hload := State.load_execute (s := s.retire.writeback) (fun e he => (h.exl e (hexl ▸ he)).2.1)
      ((Nat.zero_add _).trans_le h.completing_le)
    rwa [hexl] at hload
  issue := (State.load_issue_le _).1
  dispatch := State.load_dispatch_le _
  regRead := (Nat.le_add_right ..).trans (State.load_regRead _).le
  rename := (State.load_rename_le _).1
  decode := (Nat.le_add_right ..).trans (State.load_decode _).le

theorem Timed.load_stages_le (h : Timed s) : s.stages.load ≤ s.load := by
  obtain ⟨h1, h2, h3, h4, h5, h6, h7, h8⟩ := h.loadChain
  omega

/-- Where Retire, Writeback and Execute take nothing away, the head is not ready and WB and EXL are empty. -/
theorem Sound.backend_of_idle (h : Sound s) (hidle : s.load ≤ s.stages.load) :
    s.wb = [] ∧ s.exl = [] ∧ s.retire = s.stampedForRetire ∧ s.retire.writeback.execute = s.retire := by
  obtain ⟨h1, h2, h3, h4, h5, h6, h7, h8⟩ := h.timed.loadChain
  have hwidth := ((Config.wellFormed_iff _).mp h.sized.cfg).2.2
  have hwb : s.wb = [] := List.length_eq_zero_iff.mp (by omega)
  have hexl : s.exl = [] := List.length_eq_zero_iff.mp (by omega)
  refine ⟨hwb, hexl, ?_, ?_⟩
  · refine State.retireLoop_of_stopped (s := s.stampedForRetire) (fun y hy => ?_) _
    obtain ⟨x, hx, rfl⟩ := Option.map_eq_some_iff.mp ((List.getElem?_map ..).symm.trans hy)
    rw [x.stampRetire_valid, x.stampRetire_ready, Bool.and_eq_false_iff, ← Bool.not_eq_true, ← Bool.not_eq_true, ← not_and_or]
    rintro ⟨hv, hr⟩
    have hlt := State.load_retire_lt hwidth hx hv hr
    omega
  · rw [State.writeback_of_wb_nil (by simpa using hwb), State.execute_of_exl_nil (by simpa using hexl)]

/-- Where the IQ is empty and the front end takes nothing away, DI and RR are empty, and with an empty ROB so are RN and DE. -/
theorem State.frontEnd_of_idle (hwidth : 0 < s.cfg.width) (hdi : s.di.length ≤ s.cfg.width) (hiq : ∀ x ∈ s.iq, x.valid = false)
    (hiqSize : s.cfg.width ≤ s.iq.length) (hidle : s.load ≤ s.dispatch.regRead.rename.decode.load) :
    s.di = [] ∧ s.rr = [] ∧ ((∀ x ∈ s.rob, x.valid = false) → s.cfg.width ≤ s.rob.length → s.rn = [] ∧ s.de = []) := by
  have hdispatch := s.load_dispatch
  have hregRead := s.dispatch.load_regRead
  have hrename := s.dispatch.regRead.load_rename_le
  have hdecode := s.dispatch.regRead.rename.load_decode
  have hadmits : s.cfg.width ≤ s.iqFree := (State.iqFree_of_none_valid hiq).symm ▸ hiqSize
  have hmoved : s.dispatch.di = [] := by
    obtain ⟨slots, q, -, hloop⟩ := State.dispatchLoop_placements (s := s) (b := stampAll s.di .di s.cycle)
      ((stampAll_length ..).trans_le (hdi.trans hadmits))
    rw [State.dispatch_of_admits hadmits, hloop]
  have hlen := s.dispatch_di_le
  simp only [hmoved, List.length_nil, State.dispatch_cfg, State.dispatch_rr] at hdispatch hregRead
  have hrr : s.rr = [] := List.length_eq_zero_iff.mp (by omega)
  refine ⟨List.length_eq_zero_iff.mp (by omega), hrr, fun hrob hrobSize => ?_⟩
  have hrr' : s.dispatch.regRead.rr = [] := by
    rw [State.regRead_eq]
    simp [hrr, stampAll]
  have hfree : s.dispatch.regRead.cfg.width ≤ s.dispatch.regRead.robFree := by
    have hnone : ∀ x ∈ s.dispatch.regRead.rob, x.valid = false := by simpa using hrob
    rw [State.robFree_of_none_valid hnone]
    simpa using hrobSize
  have hrenamed := hrename.2 hfree
  simp only [hrr', List.length_nil, State.regRead_cfg, State.regRead_rn, State.dispatch_cfg, State.dispatch_rn] at hrenamed
  have hrn : s.rn = [] := List.length_eq_zero_iff.mp (by omega)
  have hrn' : s.dispatch.regRead.rename.rn = [] := by
    have hnil : s.dispatch.regRead.rn = [] := by simpa using hrn
    have hloop : s.dispatch.regRead.renameLoop [] = { s.dispatch.regRead with rn := [] } := rfl
    rw [State.rename, hnil, stampAll, List.map_nil, hloop]
    split <;> rfl
  simp only [hrn', List.length_nil, State.rename_cfg, State.regRead_cfg, State.dispatch_cfg, State.rename_de, State.regRead_de,
    State.dispatch_de] at hdecode
  exact ⟨hrn, List.length_eq_zero_iff.mp (by omega)⟩

/-- With a live configuration a tick that takes nothing away finds nothing in flight: the IQ would have a ready entry, an empty IQ
admits DI, an empty DI lets RR in, and without any of these the head of the ROB is ready (rules R131, R143, R249). -/
theorem Sound.empty_of_idle (h : Sound s) (horder : InOrder s) (hlive : s.cfg.live = true) (hidle : s.load ≤ s.stages.load) :
    (∀ x ∈ s.rob, x.valid = false) ∧ s.rn = [] ∧ s.de = [] := by
  obtain ⟨hwb, hexl, hretire, hback⟩ := h.backend_of_idle hidle
  have hload := s.load_retire_le
  obtain ⟨hcfg, hrobSize, hiqSize⟩ := (Config.live_iff s.cfg).mp hlive
  have hwidth := ((Config.wellFormed_iff _).mp hcfg).2.2
  have hsized := h.sized.retire
  have hflight := h.flight.retire h.sized h.order
  have hexl' : s.retire.exl = [] := s.retire_exl.trans hexl
  have hstages : s.stages = s.retire.issue.dispatch.regRead.rename.decode := by rw [State.stages, hback]
  have hiq : ∀ x ∈ s.retire.iq, x.valid = false := by
    intro x hx
    refine Bool.eq_false_iff.mpr fun hv => ?_
    have hlt := s.retire.load_issue_le.2 (by rw [hexl', s.retire_cfg]; simpa using hwidth) (by rwa [s.retire_cfg])
      ((h.wakeup.retire h.sized h.order h.flight).exists_selectable (horder.of_view s.retire_di s.retire_rr s.retire_iq) hexl' hx hv)
    have hchain := h.timed.loadChain
    obtain ⟨-, -, -, -, h5, h6, h7, h8⟩ := hchain
    rw [hback] at h5 h6 h7 h8
    omega
  rw [hstages, State.issue_of_none_valid hiq] at hidle
  obtain ⟨hdi, hrr, hfront⟩ := State.frontEnd_of_idle (s := s.retire) (by rwa [s.retire_cfg]) hsized.di hiq
    (by rw [hsized.iq, s.retire_cfg]; exact hiqSize) (hload.trans hidle)
  have hnone : s.retire.travelling = [] := by
    have hq : queued s.retire.iq = [] := List.map_eq_nil_iff.mpr (List.filter_eq_nil_iff.mpr fun x hx => by simp [hiq x hx])
    rw [State.travelling, State.unfinished_eq, hdi, hrr, hq, hexl', s.retire_wb, hwb]
    rfl
  have hrob : ∀ x ∈ s.retire.rob, x.valid = false := by
    by_contra hsome
    simp only [not_forall, Bool.not_eq_false] at hsome
    obtain ⟨x, hx, hv⟩ := hsome
    obtain ⟨j, hj⟩ := List.mem_iff_getElem?.mp hx
    obtain ⟨n, hn⟩ := programOrder_iff.mp (h.order.retire h.sized)
    obtain ⟨k, -, -, hvk⟩ := hn.occupied.place hsized.rob hj
    have hkn : k < n := by simpa [hv] using hvk.symm
    obtain ⟨y, hy, hvy⟩ := hn.occupied.slot hsized.robSize_pos
    have hvy' : y.valid = true := hvy.trans (decide_eq_true (by omega))
    rw [State.robIndex_zero hsized.head] at hy
    cases hr : y.ready with
    | false =>
      obtain ⟨i, hi, -⟩ := hflight.present _ y hy hvy' hr
      rw [hnone] at hi
      cases hi
    | true =>
      rw [hretire] at hy
      obtain ⟨z, hz, rfl⟩ := Option.map_eq_some_iff.mp ((List.getElem?_map ..).symm.trans hy)
      have hlt := State.load_retire_lt hwidth hz ((z.stampRetire_valid _).symm.trans hvy') ((z.stampRetire_ready _).symm.trans hr)
      have hload' := hretire ▸ s.load_stampedForRetire
      omega
  obtain ⟨hrn, hde⟩ := hfront hrob (by rw [hsized.rob, s.retire_cfg]; exact hrobSize)
  refine ⟨fun x hx => ?_, s.retire_rn ▸ hrn, s.retire_de ▸ hde⟩
  have hmem : x.stampRetire s.cycle ∈ s.retire.rob := by
    rw [hretire]
    exact List.mem_map_of_mem hx
  exact (x.stampRetire_valid _).symm.trans (hrob _ hmem)

/-! The bound -/

/-- What a run with a live configuration keeps from the second tick on: at most `N` instructions in all, and a cycle for each unit of
work done. -/
structure Progressing (N : Nat) (s : State) : Prop where
  sound : Sound s
  order : InOrder s
  live : s.cfg.live = true
  inDomain : ∀ line ∈ s.trace, lineInDomain line = true
  supply : s.seqNext + s.trace.length ≤ N
  bound : s.cycle + s.load ≤ 12 * s.seqNext + 1

/-- The trace has ended, or DE has an instruction: Fetch fills it (rule R121). -/
def Fed (s : State) : Prop := s.traceDone = true ∨ s.de ≠ []

theorem fed_of_fetch (hwidth : 0 < s.cfg.width) (hfetch : fetch s = .next t) : Fed t := by
  rcases fetch_cases hfetch with ⟨hdone, rfl⟩ | ⟨hlatch, -⟩
  · exact .inl hdone
  · obtain ⟨l, lines, rest, htakes⟩ := fetch_takes hlatch hfetch
    have hlen : t.de.length = s.de.length + l.length := by
      simpa using congrArg (fun u : State => u.de.length) htakes.result
    rcases htakes.stop with ⟨hdone, -⟩ | ⟨-, -, hfull⟩
    · exact .inl hdone
    · refine .inr fun hnil => ?_
      rw [hnil, List.length_nil] at hlen
      rcases hfull with hfull | hfull
      · omega
      · rw [hnil, List.length_nil] at hfull
        omega

theorem fetch_supply (hfetch : fetch s = .next t) : t.seqNext + t.trace.length ≤ s.seqNext + s.trace.length := by
  rcases fetch_cases hfetch with ⟨-, rfl⟩ | ⟨hlatch, -⟩
  · exact Nat.le_refl _
  · obtain ⟨l, lines, rest, htakes⟩ := fetch_takes hlatch hfetch
    have hseq : t.seqNext = s.seqNext + l.length := congrArg State.seqNext htakes.result
    have hlines : lines.length = l.length := by simpa using congrArg List.length htakes.decoded
    have htrace := congrArg List.length htakes.trace
    rw [List.length_append] at htrace
    rcases htakes.stop with ⟨-, hnil, -⟩ | ⟨-, hrest, -⟩
    · rw [hnil, List.length_nil]
      omega
    · rw [hrest]
      omega

/-- A tick that takes some of the work away keeps the bound. -/
theorem Progressing.tick {N : Nat} (h : Progressing N s) (hgo : s.continues = true)
    (hless : s.cycle + 1 + s.stages.load ≤ 12 * s.seqNext + 1) :
    ∃ t, step s = .next t ∧ Progressing N t ∧ Fed t ∧ t.cycle = s.cycle + 1 := by
  obtain ⟨t, hstep, hdomain⟩ := step_of_inDomain h.sound.sized.cfg h.inDomain
  have hcycle := step_cycle hstep hgo
  have hcfg := step_cfg hstep
  have hwidth := ((Config.wellFormed_iff _).mp h.sound.sized.cfg).2.2
  have htick := hstep
  rw [step_eq_tick h.sound.sized.cfg hgo] at htick
  obtain ⟨u, hu, ht⟩ := andThen_next.mp htick
  obtain rfl := Host.Outcome.next.inj ht
  have hload := load_fetch hu
  have hsupply := fetch_supply hu
  rw [State.stages_seqNext] at hload hsupply
  rw [State.stages_trace] at hsupply
  refine ⟨u.advance, hstep, ⟨h.sound.step hstep, h.order.step h.sound hstep, hcfg ▸ h.live, hdomain, hsupply.trans h.supply, ?_⟩,
    fed_of_fetch (s := s.stages) (t := u) (by rwa [State.stages_cfg]) hu, hcycle⟩
  rw [hcycle]
  show s.cycle + 1 + u.load ≤ 12 * u.seqNext + 1
  omega

/-- A fed engine that goes on has work in flight, and its tick takes some away. -/
theorem Progressing.load_lt {N : Nat} (h : Progressing N s) (hfed : Fed s) (hgo : s.continues = true) : s.stages.load < s.load := by
  by_contra hidle
  obtain ⟨hrob, hrn, hde⟩ := h.sound.empty_of_idle h.order h.live (Nat.le_of_not_lt hidle)
  obtain ⟨n, hn⟩ := programOrder_iff.mp h.sound.order
  obtain rfl := hn.count_eq_zero h.sound.sized hrob
  have hcount := hn.count
  rw [hrn, hde] at hcount
  have hdone := h.sound.done (hfed.resolve_right fun hne => hne hde) (by simpa using hcount)
  rw [State.done, hgo] at hdone
  cases hdone

theorem run_of_stopped (h : step s = .next s) (n : Nat) : run n s = .next s := by
  induction n with
  | zero => rfl
  | succ n ih => exact andThen_next.mpr ⟨s, h, ih⟩

/-- A run of `n` steps has stopped, or each of its steps was a tick. -/
theorem Progressing.run {N : Nat} (n : Nat) (h : Progressing N s) (hfed : Fed s) :
    ∃ t, run n s = .next t ∧ Progressing N t ∧ (t.done = true ∨ t.cycle = s.cycle + n) := by
  induction n generalizing s with
  | zero => exact ⟨s, rfl, h, .inr rfl⟩
  | succ n ih =>
    cases hgo : s.continues with
    | true =>
      have hless := h.load_lt hfed hgo
      have hbound := h.bound
      obtain ⟨u, hu, hprog, hfedu, hcycle⟩ := h.tick hgo (by omega)
      obtain ⟨t, ht, hpt, hend⟩ := ih hprog hfedu
      exact ⟨t, andThen_next.mpr ⟨u, hu, ht⟩, hpt, hend.imp_right fun hend => by omega⟩
    | false =>
      obtain ⟨t, ht, hpt, hend⟩ := ih h hfed
      have hstop := step_of_stopped h.sound.sized.cfg hgo
      refine ⟨t, andThen_next.mpr ⟨s, hstop, ht⟩, hpt, .inl ?_⟩
      obtain rfl := Host.Outcome.next.inj ((run_of_stopped hstop n).symm.trans ht)
      rw [State.done, hgo]
      rfl

end

theorem State.start_load (cfg : Config) (trace : List TraceLine) : (State.start cfg trace).load = 0 := by
  have hqueued : queued (List.replicate cfg.iqSize IqSlot.free) = [] := by simp [queued, IqSlot.free]
  have hready : readyCount (List.replicate cfg.robSize RobSlot.free) = 0 := by
    simp [readyCount, List.countP_replicate, RobSlot.free]
  simp [State.load, State.start, hqueued, hready]

theorem progressing_start {cfg : Config} {trace : List TraceLine} (hlive : cfg.live = true)
    (htrace : ∀ l ∈ trace, lineInDomain l = true) : Progressing trace.length (State.start cfg trace) where
  sound := sound_start ((Config.live_iff cfg).mp hlive).1 trace
  order := by
    refine ⟨List.Pairwise.nil, fun x hx hv => ?_⟩
    obtain rfl := List.eq_of_mem_replicate hx
    cases hv
  live := hlive
  inDomain := htrace
  supply := (Nat.zero_add _).le
  bound := by rw [State.start_load]; exact Nat.zero_le _

/-- Settles O55: an instruction brings 12 units of work with it and every tick after the first takes at least one away, so that a run
longer than 12 times the trace has stopped. -/
theorem everyLiveRunTerminates : Obligations.EveryLiveRunTerminates := by
  intro cfg trace hlive htrace
  have hstart := progressing_start hlive htrace
  have hload := hstart.sound.timed.load_stages_le
  rw [State.start_load] at hload
  obtain ⟨u, hu, hprog, hfed, hcycle⟩ := hstart.tick (State.continues_of_open rfl) (by
    show 0 + 1 + _ ≤ 12 * 0 + 1
    omega)
  obtain ⟨t, ht, hpt, hend⟩ := hprog.run (12 * trace.length + 2) hfed
  have hbound := hpt.bound
  have hsupply := hpt.supply
  refine ⟨12 * trace.length + 2 + 1, t, andThen_next.mpr ⟨u, hu, ht⟩, hend.resolve_right fun hlong => ?_, by omega⟩
  omega

end Sys2Proof.Machine
end

section
/-!
PROOFS. One instruction alone (rule R255): in a drained engine one stage has work in each tick, and the others leave the state as it
is; so the lifecycle is a chain of ticks, one lemma each: O53.
-/

namespace Sys2Proof.Machine

/-! Stages that find nothing -/

section
variable {s : State}

theorem State.dispatch_of_di_nil (h : s.di = []) : s.dispatch = s := by
  cases s
  cases h
  unfold State.dispatch
  split <;> rfl

theorem State.regRead_of_rr_nil (h : s.rr = []) : s.regRead = s := by
  cases s
  cases h
  rfl

theorem State.rename_of_rn_nil (h : s.rn = []) : s.rename = s := by
  cases s
  cases h
  unfold State.rename
  split <;> rfl

theorem State.decode_of_de_nil (h : s.de = []) : s.decode = s := by
  cases s
  cases h
  rfl

theorem State.stages_of_idle_back (hrob : ∀ x ∈ s.rob, x.valid = true → x.ready = false) (hwb : s.wb = []) (hexl : s.exl = [])
    (hiq : ∀ x ∈ s.iq, x.valid = false) : s.stages = s.dispatch.regRead.rename.decode := by
  rw [State.stages, State.retire_of_none_ready hrob, State.writeback_of_wb_nil hwb, State.execute_of_exl_nil hexl,
    State.issue_of_none_valid hiq]

theorem State.frontEnd_of_empty (hdi : s.di = []) (hrr : s.rr = []) (hrn : s.rn = []) (hde : s.de = []) :
    s.dispatch.regRead.rename.decode = s := by
  rw [State.dispatch_of_di_nil hdi, State.regRead_of_rr_nil hrr, State.rename_of_rn_nil hrn, State.decode_of_de_nil hde]

/-- Where the end of the stream is latched a tick is its eight stages. -/
theorem step_of_latched (hcfg : s.cfg.wellFormed = true) (hgo : s.continues = true) (hlatch : s.traceDone = true) :
    step s = .next s.stages.advance :=
  step_of_continues hcfg hgo (fetch_of_traceDone (s.stages_traceDone.trans hlatch))

end

/-- A stage that hands a record on in the cycle it first sees it (rule R117). -/
def InsRec.pass (i : InsRec) (st : Stage) (c : Nat) : InsRec := (i.stamp st c).leave st c

@[simp] theorem InsRec.pass_src1Tag (i : InsRec) (st : Stage) (c : Nat) : (i.pass st c).src1Tag = i.src1Tag := rfl
@[simp] theorem InsRec.pass_src2Tag (i : InsRec) (st : Stage) (c : Nat) : (i.pass st c).src2Tag = i.src2Tag := rfl
@[simp] theorem InsRec.pass_op (i : InsRec) (st : Stage) (c : Nat) : (i.pass st c).op = i.op := rfl

/-- Every place from Fetch to Writeback is empty and no slot is ready, with a live configuration and the end of the stream latched. -/
structure Vacant (b : State) : Prop where
  live : b.cfg.live = true
  latch : b.traceDone = true
  de : b.de = []
  rn : b.rn = []
  rr : b.rr = []
  di : b.di = []
  wb : b.wb = []
  exl : b.exl = []
  iq : ∀ x ∈ b.iq, x.valid = false
  iqSize : b.iq.length = b.cfg.iqSize
  waiting : ∀ x ∈ b.rob, x.valid = true → x.ready = false

section
variable {b : State} {r : InsRec}

theorem Vacant.wellFormed (h : Vacant b) : b.cfg.wellFormed = true := ((Config.live_iff _).mp h.live).1

theorem Vacant.width_succ (h : Vacant b) : ∃ n, b.cfg.width = n + 1 := by
  have hwidth := ((Config.wellFormed_iff _).mp h.wellFormed).2.2
  exact ⟨b.cfg.width - 1, by omega⟩

theorem Vacant.advance (h : Vacant b) : Vacant b.advance := { h with }

/-! One tick for each stage -/

theorem Vacant.step_rn (h : Vacant b) (hrob : ∀ x ∈ b.rob, x.valid = false) (hlen : b.rob.length = b.cfg.robSize)
    (hpointers : b.head = b.tail) (hrmt : ∀ r : ArfIndex, b.rmt[r].valid = false) :
    step { b with rn := [r] } = .next { b.advance with
      rr := [{ r.pass .rn b.cycle with dstTag := some b.head }]
      rob := b.rob.set b.head { valid := true, ready := false, ins := r.stamp .rn b.cycle, dstArf := r.dst }
      rmt := mapDest b.rmt r.dst b.head
      tail := robSucc b.cfg b.head } := by
  have hnone (src : RegField) : sourceTag b.rmt src = none := by
    cases src with
    | none => rfl
    | some r => exact if_neg (Bool.eq_false_iff.mp (hrmt r))
  have hadmits : ({ b with rn := [r] } : State).robAdmits = true := by
    refine decide_eq_true ?_
    rw [State.robFree_of_none_valid (s := { b with rn := [r] }) hrob]
    exact hlen ▸ ((Config.live_iff _).mp h.live).2.1
  have hroom : ({ b with rn := [r] } : State).room b.rr = true := by
    obtain ⟨n, hn⟩ := h.width_succ
    simp [State.room, h.rr, hn]
  have hrenamed : (r.stamp .rn b.cycle).renamed b.rmt b.tail b.cycle = { r.pass .rn b.cycle with dstTag := some b.tail } := by
    simp only [InsRec.renamed, hnone]
    rfl
  have hrename : ({ b with rn := [r] } : State).rename = ({ b with rn := [] } : State).renameOne (r.stamp .rn b.cycle) := by
    rw [State.rename, if_pos hadmits]
    exact if_pos hroom
  rw [step_of_latched (s := { b with rn := [r] }) h.wellFormed (by simp [State.continues]) h.latch,
    State.stages_of_idle_back (s := { b with rn := [r] }) h.waiting h.wb h.exl h.iq,
    State.dispatch_of_di_nil (s := { b with rn := [r] }) h.di, State.regRead_of_rr_nil (s := { b with rn := [r] }) h.rr, hrename,
    State.decode_of_de_nil (by rw [State.renameOne_de]; exact h.de)]
  simp only [State.renameOne, hrenamed, State.advance, h.rr, h.rn, hpointers]
  rfl

theorem InsRec.snap_of_no_tags (h1 : r.src1Tag = none) (h2 : r.src2Tag = none) (rob : List RobSlot) : r.snap rob = r := by
  cases r
  cases h1
  cases h2
  rfl

theorem Vacant.step_rr (h : Vacant b) (htag1 : r.src1Tag = none) (htag2 : r.src2Tag = none) :
    step { b with rr := [r] } = .next { b.advance with di := [r.pass .rr b.cycle] } := by
  have hread : ({ b with rr := [r] } : State).regRead = { b with di := [r.pass .rr b.cycle] } := by
    obtain ⟨n, hn⟩ := h.width_succ
    have hsnap : (r.stamp .rr b.cycle).snap b.rob = r.stamp .rr b.cycle :=
      InsRec.snap_of_no_tags (r := r.stamp .rr b.cycle) htag1 htag2 _
    rw [State.regRead_eq]
    simp [stampAll, h.di, h.rr, hn, InsRec.regRead, hsnap, InsRec.pass]
  rw [step_of_latched (s := { b with rr := [r] }) h.wellFormed (by simp [State.continues]) h.latch,
    State.stages_of_idle_back (s := { b with rr := [r] }) h.waiting h.wb h.exl h.iq,
    State.dispatch_of_di_nil (s := { b with rr := [r] }) h.di, hread, State.rename_of_rn_nil (by exact h.rn),
    State.decode_of_de_nil (by exact h.de)]
  rfl

theorem Vacant.iq_cons (h : Vacant b) : ∃ y q, b.iq = y :: q := by
  have hsize := ((Config.wellFormed_iff _).mp h.wellFormed).2.1
  exact List.exists_cons_of_length_pos (h.iqSize ▸ hsize)

/-- The record goes to the first slot of the IQ (rule R144). -/
theorem Vacant.step_di (h : Vacant b) (htag1 : r.src1Tag = none) (htag2 : r.src2Tag = none) :
    step { b with di := [r] } = .next { b.advance with iq := b.iq.set 0 { valid := true, ins := r.pass .di b.cycle } } := by
  have hfree : freeSlot b.iq = some 0 := by
    obtain ⟨y, q, hq⟩ := h.iq_cons
    have hy := h.iq y (hq ▸ List.mem_cons_self ..)
    simp [hq, freeSlot, hy]
  have hadmits : ({ b with di := [r] } : State).iqAdmits = true := by
    refine decide_eq_true ?_
    rw [State.iqFree_of_none_valid (s := { b with di := [r] }) h.iq]
    exact h.iqSize ▸ ((Config.live_iff _).mp h.live).2.2
  have hsnap : (r.stamp .di b.cycle).snap b.rob = r.stamp .di b.cycle :=
    InsRec.snap_of_no_tags (r := r.stamp .di b.cycle) htag1 htag2 _
  have hdispatch : ({ b with di := [r] } : State).dispatch = { b with iq := b.iq.set 0 { valid := true, ins := r.pass .di b.cycle } } := by
    rw [State.dispatch, if_pos hadmits]
    simp [stampAll, State.dispatchLoop, hfree, InsRec.dispatched, hsnap, h.di, InsRec.pass]
  rw [step_of_latched (s := { b with di := [r] }) h.wellFormed (by simp [State.continues]) h.latch,
    State.stages_of_idle_back (s := { b with di := [r] }) h.waiting h.wb h.exl h.iq, hdispatch,
    State.regRead_of_rr_nil (by exact h.rr), State.rename_of_rn_nil (by exact h.rn), State.decode_of_de_nil (by exact h.de)]
  rfl

/-- Issue takes the only entry (rules R152 to R154). -/
theorem State.issue_of_lone {q : List IqSlot} (hexl : b.exl = []) (hwidth : ∃ n, b.cfg.width = n + 1)
    (hq : ∀ x ∈ q, x.valid = false) (htag1 : r.src1Tag = none) (htag2 : r.src2Tag = none) :
    ({ b with iq := { valid := true, ins := r } :: q } : State).issue = { b with
      iq := { valid := false, ins := r.stamp .is b.cycle } :: q
      exl := [{ ins := r.pass .is b.cycle, rem := latency r.op }] } := by
  obtain ⟨n, hn⟩ := hwidth
  have hstamps : q.map (fun x => x.stampIssue b.cycle) = q :=
    (List.map_congr_left fun x hx => if_neg (Bool.eq_false_iff.mp (hq x hx))).trans (List.map_id _)
  have hnone {z : IqSlot} (hz : z.valid = false) : oldestReady (z :: q) = none :=
    oldestReady_eq_none_iff.mpr fun x hx => by
      rcases List.mem_cons.mp hx with rfl | hx
      · simp [IqSlot.selectable, hz]
      · simp [IqSlot.selectable, hq x hx]
  have hold : oldestReady q = none := oldestReady_eq_none_iff.mpr fun x hx => by simp [IqSlot.selectable, hq x hx]
  have hsel : oldestReady ({ valid := true, ins := r.stamp .is b.cycle } :: q) = some ((r.stamp .is b.cycle).age, 0) := by
    have hready : ({ valid := true, ins := r.stamp .is b.cycle } : IqSlot).selectable = true :=
      (IqSlot.selectable_iff _).mpr ⟨rfl, htag1, htag2⟩
    rw [oldestReady, hold]
    simp [hready]
  have hidle (u : State) (z : IqSlot) (hz : z.valid = false) (hu : u.iq = z :: q) (m : Nat) : u.issueLoop m = u := by
    cases m with
    | zero => rfl
    | succ m => simp [State.issueLoop, hu, hnone hz]
  have hopen : ({ b with iq := { valid := true, ins := r } :: q } : State).exlFull = false := by
    simp [State.exlFull, hexl, hn]
  rw [State.issue, if_neg (by rw [hopen]; exact Bool.false_ne_true)]
  show ({ b with iq := List.map _ _ } : State).issueLoop b.cfg.width = _
  rw [hn, List.map_cons, hstamps]
  show ({ b with iq := { valid := true, ins := r.stamp .is b.cycle } :: q } : State).issueLoop (n + 1) = _
  simp only [State.issueLoop, hsel, List.getElem?_cons_zero]
  rw [hidle _ { valid := false, ins := r.stamp .is b.cycle } rfl rfl]
  simp [State.issueOne, hexl, InsRec.pass]

theorem Vacant.step_iq (h : Vacant b) (htag1 : r.src1Tag = none) (htag2 : r.src2Tag = none) :
    step { b with iq := b.iq.set 0 { valid := true, ins := r } } = .next { b.advance with
      iq := b.iq.set 0 { valid := false, ins := r.stamp .is b.cycle }
      exl := [{ ins := r.pass .is b.cycle, rem := latency r.op }] } := by
  obtain ⟨y, q, hq⟩ := h.iq_cons
  have hrest : ∀ x ∈ q, x.valid = false := fun x hx => h.iq x (hq ▸ List.mem_cons_of_mem _ hx)
  rw [hq, List.set_cons_zero, List.set_cons_zero]
  generalize hu : ({ b with iq := { valid := true, ins := r } :: q } : State) = u
  have hissue := State.issue_of_lone (b := b) h.exl h.width_succ hrest htag1 htag2
  rw [hu] at hissue
  rw [step_of_latched (s := u) (hu ▸ h.wellFormed) (by simp [State.continues, ← hu, State.iqNonEmpty]) (hu ▸ h.latch), State.stages,
    State.retire_of_none_ready (s := u) (hu ▸ h.waiting), State.writeback_of_wb_nil (s := u) (hu ▸ h.wb),
    State.execute_of_exl_nil (s := u) (hu ▸ h.exl), hissue,
    State.frontEnd_of_empty (by exact h.di) (by exact h.rr) (by exact h.rn) (by exact h.de)]
  rfl

/-- Execute counts the only entry down (rules R157, R158). -/
theorem Vacant.execute_lone (h : Vacant b) (k : Nat) :
    ({ b with exl := [{ ins := r, rem := k + 1 }] } : State).execute =
      if k = 0 then { b with wb := [({ ins := r.stamp .ex b.cycle, rem := 0 } : ExlEntry).finish b.cycle] }
      else { b with exl := [{ ins := r.stamp .ex b.cycle, rem := k }] } := by
  generalize hu : ({ b with exl := [{ ins := r, rem := k + 1 }] } : State) = u
  have hexl : u.exl.map (fun e => e.countDown u.cycle) = [{ ins := r.stamp .ex b.cycle, rem := k }] := by
    rw [← hu]
    rfl
  have hle : u.completing.length ≤ 1 := by
    rw [State.completing, hexl]
    exact List.length_filter_le ..
  obtain ⟨n, hn⟩ := h.width_succ
  have hroom : u.wb.length + u.completing.length ≤ 5 * u.cfg.width := by
    have hwb : u.wb.length = 0 := by rw [← hu]; simp [h.wb]
    have hwidth : u.cfg.width = n + 1 := by rw [← hu]; exact hn
    omega
  obtain ⟨hstay, hdone⟩ := State.execute_of_enough_room hroom
  have hiq : u.iq.map (fun x => x.wakeAll (u.completing.map fun e => e.ins.dstTag)) = b.iq := by
    rw [← hu]
    exact (List.map_congr_left fun x hx => if_neg (Bool.eq_false_iff.mp (h.iq x hx))).trans (List.map_id _)
  rw [State.completing, hexl] at hdone
  rw [hexl] at hstay
  rw [State.execute_frame, hiq, hstay, hdone]
  subst hu
  by_cases hk : k = 0
  · simp [hk, h.wb, h.di, h.rr, h.exl]
  · simp [hk, h.wb, h.di, h.rr]

theorem Vacant.step_exl (h : Vacant b) (k : Nat) :
    step { b with exl := [{ ins := r, rem := k + 1 }] } = .next
      (if k = 0 then { b.advance with wb := [({ ins := r.stamp .ex b.cycle, rem := 0 } : ExlEntry).finish b.cycle] }
      else { b.advance with exl := [{ ins := r.stamp .ex b.cycle, rem := k }] }) := by
  generalize hu : ({ b with exl := [{ ins := r, rem := k + 1 }] } : State) = u
  have hexecute := h.execute_lone (r := r) k
  rw [hu] at hexecute
  rw [step_of_latched (s := u) (hu ▸ h.wellFormed) (by simp [State.continues, ← hu]) (hu ▸ h.latch), State.stages,
    State.retire_of_none_ready (s := u) (hu ▸ h.waiting), State.writeback_of_wb_nil (s := u) (hu ▸ h.wb), hexecute]
  split
  all_goals
    rw [State.issue_of_none_valid (by exact h.iq),
      State.frontEnd_of_empty (by exact h.di) (by exact h.rr) (by exact h.rn) (by exact h.de)]
    rfl

theorem InsRec.stamp_stamp (i : InsRec) (st : Stage) (c d : Nat) : (i.stamp st c).stamp st d = i.stamp st c := by
  have hset (t : Timings) (v w : StageTime) : (t.set st v).set st w = t.set st w := by cases st <;> rfl
  have htwice (v : StageTime) : (v.stamp c).stamp d = v.stamp c := by
    rcases v with ⟨_ | a, n⟩ <;> rfl
  simp only [InsRec.stamp, Timings.get_set_self, htwice, hset]

/-- Execution takes as many ticks as the count says (rules R104, R158). -/
theorem Vacant.run_exl (h : Vacant b) (k : Nat) :
    run (k + 1) { b with exl := [{ ins := r, rem := k + 1 }] } = .next { b with
      cycle := b.cycle + k + 1
      wb := [({ ins := r.stamp .ex b.cycle, rem := 0 } : ExlEntry).finish (b.cycle + k)] } := by
  induction k generalizing b r with
  | zero => exact andThen_next.mpr ⟨_, h.step_exl 0, rfl⟩
  | succ k ih =>
    refine andThen_next.mpr ⟨_, h.step_exl (k + 1), ?_⟩
    have hrest := ih h.advance (r := r.stamp .ex b.cycle)
    rw [InsRec.stamp_stamp] at hrest
    rw [if_neg (Nat.succ_ne_zero k)]
    refine hrest.trans ?_
    simp [State.advance, Nat.add_comm, Nat.add_left_comm]

/-! Writeback and Retire -/

theorem writebackRob_set_lone {rob : List RobSlot} {k : Nat} {x : RobSlot} {i : InsRec} (hrob : ∀ y ∈ rob, y.valid = false)
    (hx : x.holds i.seq = true) : writebackRob (rob.set k x) i = rob.set k (x.written i) := by
  induction rob generalizing k with
  | nil => rfl
  | cons y rob ih =>
    obtain ⟨hy, hrest⟩ := List.forall_mem_cons.mp hrob
    cases k with
    | zero => exact if_pos hx
    | succ k =>
      have hother : y.holds i.seq = false := by simp [RobSlot.holds, hy]
      rw [List.set_cons_succ, writebackRob, hother, ih hrest]
      rfl

theorem Vacant.step_wb (h : Vacant b) {x : RobSlot} (hrob : ∀ y ∈ b.rob, y.valid = false) (hx : x.holds r.seq = true)
    (hwait : x.ready = false) :
    step { b with rob := b.rob.set b.head x, wb := [r] } = .next { b.advance with
      rob := b.rob.set b.head (x.written (r.pass .wb b.cycle)) } := by
  generalize hu : ({ b with rob := b.rob.set b.head x, wb := [r] } : State) = u
  have hready : ∀ y ∈ u.rob, y.valid = true → y.ready = false := by
    rw [← hu]
    intro y hy hv
    rcases List.mem_or_eq_of_mem_set hy with hy | rfl
    · rw [hrob y hy] at hv
      cases hv
    · exact hwait
  have hwriteback : u.writeback = { b with rob := b.rob.set b.head (x.written (r.pass .wb b.cycle)) } := by
    have hset := writebackRob_set_lone (k := b.head) (i := r.pass .wb b.cycle) hrob hx
    have hdrain : writebackAll b.cycle (stampAll [r] .wb b.cycle) (b.rob.set b.head x) =
        writebackRob (b.rob.set b.head x) (r.pass .wb b.cycle) := rfl
    rw [← hu, State.writeback, hdrain, hset]
    simp [h.wb]
  rw [step_of_latched (s := u) (hu ▸ h.wellFormed) (by simp [State.continues, ← hu]) (hu ▸ h.latch), State.stages,
    State.retire_of_none_ready hready, hwriteback, State.execute_of_exl_nil (by exact h.exl), State.issue_of_none_valid (by exact h.iq),
    State.frontEnd_of_empty (by exact h.di) (by exact h.rr) (by exact h.rn) (by exact h.de)]
  rfl

/-- The only slot retires, and the head behind it is free (rules R175 to R179). -/
theorem Vacant.step_rob (h : Vacant b) {x : RobSlot} (hrob : ∀ y ∈ b.rob, y.valid = false) (hhead : b.head < b.rob.length)
    (hv : x.valid = true) (hr : x.ready = true) :
    step { b with rob := b.rob.set b.head x } = .next { b.advance with
      out := b.out ++ [(x.ins.pass .rt b.cycle).timing]
      rmt := clearDest b.rmt x.dstArf b.head
      rob := b.rob.set b.head { valid := false, ready := x.ready, ins := x.ins.stamp .rt b.cycle, dstArf := x.dstArf }
      head := robSucc b.cfg b.head } := by
  generalize hu : ({ b with rob := b.rob.set b.head x } : State) = u
  obtain ⟨n, hn⟩ := h.width_succ
  have hstamp : x.stampRetire b.cycle = { x with ins := x.ins.stamp .rt b.cycle } := if_pos (by rw [hv, hr]; rfl)
  have hstamps : u.stampedForRetire = { b with rob := b.rob.set b.head (x.stampRetire b.cycle) } := by
    have hrest : b.rob.map (fun y => y.stampRetire b.cycle) = b.rob :=
      (List.map_congr_left fun y hy => if_neg (by simp [hrob y hy])).trans (List.map_id _)
    rw [← hu, State.stampedForRetire, List.map_set, hrest]
  have hretire : u.retire = ({ b with rob := b.rob.set b.head (x.stampRetire b.cycle) } : State).retireOne (x.stampRetire b.cycle) := by
    have hwidth : u.cfg.width = n + 1 := by rw [← hu]; exact hn
    rw [State.retire_eq, hwidth, hstamps, State.retireLoop_succ_of_ready (x := x.stampRetire b.cycle) (List.getElem?_set_self hhead)
      (by rw [x.stampRetire_valid, x.stampRetire_ready, hv, hr]; rfl)]
    refine State.retireLoop_of_stopped (fun y hy => ?_) n
    have hmem := List.mem_of_getElem? hy
    rw [State.retireOne_rob, List.set_set] at hmem
    rcases List.mem_or_eq_of_mem_set hmem with hmem | rfl
    · simp [hrob y hmem]
    · rfl
  have hgo : u.continues = true := by
    have hmem : x ∈ u.rob := by
      rw [← hu]
      exact List.mem_of_getElem? (List.getElem?_set_self hhead)
    have hany : u.robNonEmpty = true := List.any_eq_true.mpr ⟨x, hmem, hv⟩
    simp [State.continues, hany]
  rw [step_of_latched (s := u) (hu ▸ h.wellFormed) hgo (hu ▸ h.latch), State.stages, hretire,
    State.writeback_of_wb_nil (by exact h.wb), State.execute_of_exl_nil (by exact h.exl), State.issue_of_none_valid (by exact h.iq),
    State.frontEnd_of_empty (by exact h.di) (by exact h.rr) (by exact h.rn) (by exact h.de), hstamp]
  simp [State.retireOne, State.advance, InsRec.pass]

/-! Fetch and Decode, where the end of the stream may still be ahead -/

theorem Vacant.step_de (h : Vacant b) (htrace : b.trace = []) (done : Bool) :
    step { b with de := [r], traceDone := done } = .next { b.advance with rn := [r.pass .de b.cycle] } := by
  generalize hu : ({ b with de := [r], traceDone := done } : State) = u
  obtain ⟨n, hn⟩ := h.width_succ
  have hdecode : u.decode = { b with rn := [r.pass .de b.cycle], traceDone := done } := by
    rw [State.decode_eq, ← hu]
    simp [stampAll, hn, h.rn, h.de, InsRec.pass]
  have hstages : u.stages = { b with rn := [r.pass .de b.cycle], traceDone := done } := by
    rw [State.stages_of_idle_back (s := u) (hu ▸ h.waiting) (hu ▸ h.wb) (hu ▸ h.exl) (hu ▸ h.iq),
      State.dispatch_of_di_nil (s := u) (hu ▸ h.di), State.regRead_of_rr_nil (s := u) (hu ▸ h.rr),
      State.rename_of_rn_nil (s := u) (hu ▸ h.rn), hdecode]
  have hfetch : fetch u.stages = .next { b with rn := [r.pass .de b.cycle] } := by
    rw [hstages]
    cases done with
    | true =>
      rw [fetch_of_traceDone rfl, ← h.latch]
    | false =>
      rw [fetch_of_open rfl]
      show fetchLoop b.cfg.width _ = _
      rw [hn, fetchLoop_succ_of_end (by simp [State.room, h.de, hn]) n (by simp [htrace, traceAnswer])]
      simp [State.latchEnd, h.latch, htrace]
  exact step_of_continues (s := u) (hu ▸ h.wellFormed) (by simp [State.continues, ← hu]) hfetch

end

section
variable {s : State}

theorem Drained.rob_free (h : Drained s) : ∀ x ∈ s.rob, x.valid = false := by simpa [State.robNonEmpty] using h.rob

theorem Drained.iq_free (h : Drained s) : ∀ x ∈ s.iq, x.valid = false := by simpa [State.iqNonEmpty] using h.iq

theorem Drained.stages (h : Drained s) : s.stages = s := by
  rw [State.stages_of_idle_back (fun x hx hv => absurd hv (by simp [h.rob_free x hx])) h.wb h.exl h.iq_free,
    State.frontEnd_of_empty h.di h.rr h.rn h.de]

/-- Fetch takes the only line; with room for more it also finds the end of the stream (rule R121). -/
theorem Drained.step_fetch {i : Instr} (h : Drained s) (hcfg : s.cfg.wellFormed = true) (hlatch : s.traceDone = false)
    (htrace : s.trace = [encode i]) :
    ∃ done, step s = .next { s.advance with
      de := [InsRec.create i.op i.pc i.dst i.src1 i.src2 s.seqNext s.cycle]
      seqNext := s.seqNext + 1
      traceDone := done
      trace := [] } := by
  obtain ⟨n, hn⟩ : ∃ n, s.cfg.width = n + 1 := ⟨s.cfg.width - 1, by
    have := ((Config.wellFormed_iff _).mp hcfg).2.2
    omega⟩
  have hroom : s.room s.de = true := by simp [State.room, h.de, hn]
  have hloop : fetch s.stages = fetchLoop n (s.take i) := by
    rw [h.stages, fetch_of_open hlatch, hn]
    exact fetchLoop_succ_of_record hroom n (by rw [htrace]; exact decodeLine_encode i)
  rw [State.take_eq hlatch hroom, h.de, htrace] at hloop
  obtain ⟨done, hfetch⟩ : ∃ done, fetch s.stages = .next { s with
      de := [InsRec.create i.op i.pc i.dst i.src1 i.src2 s.seqNext s.cycle]
      seqNext := s.seqNext + 1
      traceDone := done
      trace := [] } := by
    cases n with
    | zero => exact ⟨s.traceDone, hloop⟩
    | succ n => exact ⟨true, hloop.trans (fetchLoop_succ_of_end (by simp [State.room, hn]) n rfl)⟩
  exact ⟨done, step_of_continues hcfg (State.continues_of_open hlatch) hfetch⟩

/-- A mapping made in a table without any and cleared again leaves none (rules R134, R177). -/
theorem clearDest_mapDest {rmt : Vector RmtEntry numArf} (h : ∀ r : ArfIndex, rmt[r].valid = false) (dst : RegField) (k : Nat)
    (r : ArfIndex) : (clearDest (mapDest rmt dst k) dst k)[r].valid = false := by
  rw [clearDest_get, mapDest_get]
  by_cases hdst : dst = some r
  · rw [if_pos hdst, if_pos ⟨hdst, rfl, rfl⟩]
  · rw [if_neg hdst, if_neg fun hclear => hdst hclear.1]
    exact h r

/-- The background of the life of an instruction fetched into the drained `s`, from its second tick on. -/
def State.background (s : State) : State := { s.advance with seqNext := s.seqNext + 1, traceDone := true, trace := [] }

theorem Drained.background (h : Drained s) (hsized : Sized s) (hlive : s.cfg.live = true) : Vacant s.background where
  live := hlive
  latch := rfl
  de := h.de
  rn := h.rn
  rr := h.rr
  di := h.di
  wb := h.wb
  exl := h.exl
  iq := h.iq_free
  iqSize := hsized.iq
  waiting x hx hv := absurd hv (by simp [h.rob_free x hx])

theorem Drained.done (h : Drained s) (hlatch : s.traceDone = true) : s.done = true := by
  have hstop := s.continues_eq_false_iff.mpr ⟨hlatch, h.de, h.rn, h.rr, h.di, h.wb, h.exl, h.iq_free, h.rob_free⟩
  rw [State.done, hstop]
  rfl

theorem run_trans {u t : State} {m n : Nat} (h : run m s = .next u) (hrest : run n u = .next t) : run (m + n) s = .next t := by
  rw [run_add]
  exact andThen_next.mpr ⟨u, h, hrest⟩

theorem run_cons {u t : State} {n : Nat} (hstep : step s = .next u) (hrun : run n u = .next t) : run (n + 1) s = .next t :=
  andThen_next.mpr ⟨u, hstep, hrun⟩

end

/-! The life of one instruction -/

section
variable {b : State} {r : InsRec}

/-- The background once Rename has put a record in the slot `x`. -/
def State.allocatedAlone (b : State) (x : RobSlot) : State :=
  { b with rob := b.rob.set b.head x, rmt := mapDest b.rmt x.dstArf b.head, tail := robSucc b.cfg b.head }

theorem Vacant.allocated (h : Vacant b) (hrob : ∀ x ∈ b.rob, x.valid = false) {x : RobSlot} (hx : x.ready = false) :
    Vacant (b.allocatedAlone x) where
  live := h.live
  latch := h.latch
  de := h.de
  rn := h.rn
  rr := h.rr
  di := h.di
  wb := h.wb
  exl := h.exl
  iq := h.iq
  iqSize := h.iqSize
  waiting y hy hv := by
    rcases List.mem_or_eq_of_mem_set hy with hy | rfl
    · rw [hrob y hy] at hv
      cases hv
    · exact hx

theorem Vacant.freed (h : Vacant b) (i : InsRec) : Vacant { b with iq := b.iq.set 0 { valid := false, ins := i } } where
  live := h.live
  latch := h.latch
  de := h.de
  rn := h.rn
  rr := h.rr
  di := h.di
  wb := h.wb
  exl := h.exl
  iq x hx := by
    rcases List.mem_or_eq_of_mem_set hx with hx | rfl
    · exact h.iq x hx
    · rfl
  iqSize := List.length_set.trans h.iqSize
  waiting := h.waiting

/-- The record that Rename passes on. -/
def InsRec.renamedAlone (r : InsRec) (k c : Nat) : InsRec := { r.pass .rn c with dstTag := some k }

@[simp] theorem InsRec.renamedAlone_src1Tag (r : InsRec) (k c : Nat) : (r.renamedAlone k c).src1Tag = r.src1Tag := rfl
@[simp] theorem InsRec.renamedAlone_src2Tag (r : InsRec) (k c : Nat) : (r.renamedAlone k c).src2Tag = r.src2Tag := rfl
@[simp] theorem InsRec.renamedAlone_op (r : InsRec) (k c : Nat) : (r.renamedAlone k c).op = r.op := rfl

/-- The record that Issue passes on, two ticks after Register-Read. -/
def InsRec.issuedAlone (r : InsRec) (c : Nat) : InsRec := ((r.pass .rr c).pass .di (c + 1)).pass .is (c + 2)

/-- From Register-Read to EXL in three ticks (rule R255). -/
theorem Vacant.run_regRead_issue (h : Vacant b) (htag1 : r.src1Tag = none) (htag2 : r.src2Tag = none) :
    ∃ q : IqSlot, q.valid = false ∧ run 3 { b with rr := [r] } = .next { b with
      cycle := b.cycle + 3
      iq := b.iq.set 0 q
      exl := [{ ins := r.issuedAlone b.cycle, rem := latency r.op }] } := by
  have hread := h.step_rr htag1 htag2
  have hdispatch := h.advance.step_di (r := r.pass .rr b.cycle) (by simpa using htag1) (by simpa using htag2)
  have hissue := h.advance.advance.step_iq (r := (r.pass .rr b.cycle).pass .di (b.cycle + 1)) (by simpa using htag1)
    (by simpa using htag2)
  rw [InsRec.pass_op, InsRec.pass_op] at hissue
  exact ⟨{ valid := false, ins := ((r.pass .rr b.cycle).pass .di (b.cycle + 1)).stamp .is (b.cycle + 2) }, rfl,
    run_cons hread (run_cons hdispatch (run_cons hissue rfl))⟩

/-- From Rename to EXL in four ticks (rule R255). -/
theorem Vacant.run_rename_issue (h : Vacant b) (hrob : ∀ x ∈ b.rob, x.valid = false) (hlen : b.rob.length = b.cfg.robSize)
    (hpointers : b.head = b.tail) (hrmt : ∀ r : ArfIndex, b.rmt[r].valid = false) (htag1 : r.src1Tag = none)
    (htag2 : r.src2Tag = none) : ∃ q : IqSlot, q.valid = false ∧
    run 4 { b with rn := [r] } = .next { b.allocatedAlone { valid := true, ready := false, ins := r.stamp .rn b.cycle, dstArf := r.dst } with
      cycle := b.cycle + 4
      iq := b.iq.set 0 q
      exl := [{ ins := (r.renamedAlone b.head b.cycle).issuedAlone (b.cycle + 1), rem := latency r.op }] } := by
  have halloc := (h.allocated hrob (x := { valid := true, ready := false, ins := r.stamp .rn b.cycle, dstArf := r.dst }) rfl).advance
  obtain ⟨q, hq, hrest⟩ := halloc.run_regRead_issue (r := r.renamedAlone b.head b.cycle) (by simpa using htag1) (by simpa using htag2)
  rw [InsRec.renamedAlone_op] at hrest
  exact ⟨q, hq, run_cons (h.step_rn hrob hlen hpointers hrmt) hrest⟩

/-- The record that Execute finishes `k` ticks after it entered. -/
def InsRec.finishedAlone (r : InsRec) (k c : Nat) : InsRec :=
  ({ ins := r.stamp .ex c, rem := 0 } : ExlEntry).finish (c + k)

/-- The record that retires two ticks later. -/
def InsRec.retiredAlone (r : InsRec) (k c : Nat) : InsRec := ((r.finishedAlone k c).pass .wb (c + k + 1)).pass .rt (c + k + 2)

/-- From EXL to OUT, two ticks after the execution (rule R255). -/
theorem Vacant.run_execute_retire (h : Vacant b) (hrob : ∀ x ∈ b.rob, x.valid = false) (hhead : b.head < b.rob.length) {x : RobSlot}
    (hv : x.valid = true) (hr : x.ready = false) (hseq : x.ins.seq = r.seq) (k : Nat) : ∃ y : RobSlot, y.valid = false ∧
    run (k + 1 + 2) { b with rob := b.rob.set b.head x, exl := [{ ins := r, rem := k + 1 }] } = .next { b with
      cycle := b.cycle + k + 3
      out := b.out ++ [(r.retiredAlone k b.cycle).timing]
      rmt := clearDest b.rmt x.dstArf b.head
      rob := b.rob.set b.head y
      head := robSucc b.cfg b.head } := by
  have hbusy : Vacant { b with rob := b.rob.set b.head x } := { h.allocated hrob hr with }
  have hexecute := hbusy.run_exl (r := r) k
  have hlater : Vacant { b with cycle := b.cycle + k + 1 } := { h with }
  have hwrite := hlater.step_wb (r := r.finishedAlone k b.cycle) hrob ((x.holds_iff _).mpr ⟨hv, hseq⟩) hr
  have hretire := hlater.advance.step_rob (x := x.written ((r.finishedAlone k b.cycle).pass .wb (b.cycle + k + 1))) hrob hhead hv rfl
  refine ⟨{
    valid := false
    ready := true
    ins := ((r.finishedAlone k b.cycle).pass .wb (b.cycle + k + 1)).stamp .rt (b.cycle + k + 2)
    dstArf := x.dstArf }, rfl, ?_⟩
  exact run_trans hexecute (run_cons hwrite (run_cons hretire rfl))

end

/-- The record of an instruction that meets no stall, from Fetch in cycle `f` into slot `t` to Issue. -/
def issuedAlone (i : Instr) (n f t : Nat) : InsRec :=
  (((InsRec.create i.op i.pc i.dst i.src1 i.src2 n f).pass .de (f + 1)).renamedAlone t (f + 2)).issuedAlone (f + 3)

/-- Its timing record (rule R255). -/
theorem timing_issuedAlone (i : Instr) (n f t k : Nat) (hk : latency i.op = k + 1) :
    ((issuedAlone i n f t).retiredAlone k (f + 6)).timing = {
      seq := n
      op := i.op
      src1 := i.src1
      src2 := i.src2
      dst := i.dst
      times := unstalledTimes i.op f } := by
  simp [issuedAlone, InsRec.retiredAlone, InsRec.finishedAlone, InsRec.issuedAlone, InsRec.renamedAlone, InsRec.pass, InsRec.stamp,
    InsRec.leave, InsRec.timing, InsRec.create, ExlEntry.finish, Timings.get, Timings.set, Timings.unset, StageTime.unset,
    StageTime.stamp, StageTime.leave, unstalledTimes, hk]
  omega

/-- The drained `s` after the life of `i`, executed in `k + 1` ticks: `q` and `y` are the freed slots of the IQ and of the ROB. -/
def State.afterAlone (s : State) (i : Instr) (k : Nat) (q : IqSlot) (y : RobSlot) : State :=
  { s.background with
    cycle := s.cycle + 6 + k + 3
    iq := s.iq.set 0 q
    rmt := clearDest (mapDest s.rmt i.dst s.head) i.dst s.head
    head := robSucc s.cfg s.head
    tail := robSucc s.cfg s.head
    out := s.out ++ [((issuedAlone i s.seqNext s.cycle s.head).retiredAlone k (s.cycle + 6)).timing]
    rob := s.rob.set s.head y }

section
variable {s : State} {i : Instr} {k : Nat}

theorem Drained.afterAlone (h : Drained s) {q : IqSlot} {y : RobSlot} (hq : q.valid = false) (hy : y.valid = false) :
    Drained (s.afterAlone i k q y) where
  de := h.de
  rn := h.rn
  rr := h.rr
  di := h.di
  wb := h.wb
  exl := h.exl
  rob := List.any_eq_false.mpr fun x hx => by
    rcases List.mem_or_eq_of_mem_set hx with hx | rfl
    · simp [h.rob_free x hx]
    · simp [hy]
  iq := List.any_eq_false.mpr fun x hx => by
    rcases List.mem_or_eq_of_mem_set hx with hx | rfl
    · simp [h.iq_free x hx]
    · simp [hq]
  pointers := rfl
  rmt := clearDest_mapDest h.rmt _ _

/-- The background while the instruction executes. -/
theorem Drained.executing (h : Drained s) (hsized : Sized s) (hlive : s.cfg.live = true) {q : IqSlot} (hq : q.valid = false) :
    Vacant { s.background with
      cycle := s.cycle + 6
      iq := s.iq.set 0 q
      rmt := mapDest s.rmt i.dst s.head
      tail := robSucc s.cfg s.head } := by
  obtain ⟨v, ins⟩ := q
  cases hq
  exact { (h.background hsized hlive).freed ins with }

/-- Fetch, Decode, four ticks to EXL, the execution, Writeback and Retire, one after another. -/
theorem Drained.run_alone (h : Drained s) (hsized : Sized s) (hlive : s.cfg.live = true) (hlatch : s.traceDone = false)
    (htrace : s.trace = [encode i]) (hk : latency i.op = k + 1) : ∃ (q : IqSlot) (y : RobSlot), q.valid = false ∧ y.valid = false ∧
      run (8 + latency i.op) s = .next (s.afterAlone i k q y) := by
  have hback := h.background hsized hlive
  obtain ⟨done, hfetch⟩ := h.step_fetch hback.wellFormed hlatch htrace
  have hdecode := hback.step_de (r := InsRec.create i.op i.pc i.dst i.src1 i.src2 s.seqNext s.cycle) rfl done
  obtain ⟨q, hq, hissue⟩ := hback.advance.run_rename_issue
    (r := (InsRec.create i.op i.pc i.dst i.src1 i.src2 s.seqNext s.cycle).pass .de (s.cycle + 1))
    h.rob_free hsized.rob h.pointers h.rmt rfl rfl
  have hlat : latency ((InsRec.create i.op i.pc i.dst i.src1 i.src2 s.seqNext s.cycle).pass .de (s.cycle + 1)).op = k + 1 := hk
  rw [hlat] at hissue
  obtain ⟨y, hy, hretire⟩ := (h.executing (i := i) hsized hlive hq).run_execute_retire (r := issuedAlone i s.seqNext s.cycle s.head)
    h.rob_free (hsized.rob.symm ▸ hsized.head)
    (x := {
      valid := true
      ready := false
      ins := ((InsRec.create i.op i.pc i.dst i.src1 i.src2 s.seqNext s.cycle).pass .de (s.cycle + 1)).stamp .rn (s.cycle + 2)
      dstArf := i.dst }) rfl rfl rfl k
  have hticks : 8 + latency i.op = 4 + (k + 1 + 2) + 1 + 1 := by omega
  rw [hticks]
  exact ⟨q, y, hq, hy, run_cons hfetch (run_cons hdecode (run_trans hissue hretire))⟩

end

/-- Settles O53: the run is a chain of ticks with one busy stage each, and the record it emits has the unstalled timings. -/
theorem loneInstructionTimeline : Obligations.LoneInstructionTimeline := by
  intro s i hsized hdrained hlive hlatch htrace
  obtain ⟨k, hk⟩ : ∃ k, latency i.op = k + 1 := ⟨latency i.op - 1, (Nat.sub_add_cancel (latency_pos i.op)).symm⟩
  obtain ⟨q, y, hq, hy, hrun⟩ := hdrained.run_alone hsized hlive hlatch htrace hk
  have hend : Drained (s.afterAlone i k q y) := hdrained.afterAlone hq hy
  refine ⟨_, hrun, hend.done rfl, hend, ?_, rfl, congrArg (fun r => s.out ++ [r]) (timing_issuedAlone i s.seqNext s.cycle s.head k hk)⟩
  show s.cycle + 6 + k + 3 = _
  omega

end Sys2Proof.Machine
end
